-- ==== Sys2Proof/Word.lean ====
section
/-! DEFINITION. The word types of the block (00_scope.md R10, R13): every value is unsigned. -/

namespace Sys2Proof

/-- A symbol, or one byte of a buffer (SYM_W = 8, R9, R10). -/
abbrev Byte := BitVec 8

/-- A bus data word (REG_W = 32, R10). -/
abbrev Word := BitVec 32

/-- A register word address (ADDR_W = 8, R10). -/
abbrev RegAddr := BitVec 8

/-- A node index (IDX_W = 9, R10). -/
abbrev NodeIndex := BitVec 9

/-- An aggregate frequency (AGG_W = 40, R10). -/
abbrev Freq := BitVec 40

/-- A host transaction word: W in bit 40, ADDR in bits 39:32, WDATA in bits 31:0 (30_encoding.md R110). -/
abbrev Transaction := BitVec 41

end Sys2Proof
end

