-- ==== Sys2Proof/Config.lean ====
section
/-! DEFINITION. What is fixed for one machine: the parameters the spec leaves open, and the spec's constants. -/

namespace Sys2Proof

/-- The open parameters, arguments of the model (00_scope.md R11). They are held beside the block and never change,
so a statement about every state is a statement about every pair of capacities. -/
structure Config where
  /-- IN_CAP, the capacity of IBUF in bytes. -/
  inCap : Word
  /-- OUT_CAP, the capacity of OBUF in bytes. -/
  outCap : Word
deriving DecidableEq, Repr

/-- The constraint of 00_scope.md R11: each capacity is 1 to 2^32 - 1 (the upper bound is the type's). -/
abbrev Config.admissible (c : Config) : Prop := c.inCap ≠ 0 ∧ c.outCap ≠ 0

/-- DESIGN CHOICE (log entry 1): the pair the machine `State.reset` is built with, the one 95_test_vectors.md assumes
unless a vector says otherwise (00_scope.md R11). -/
def Config.usual : Config := { inCap := 65536, outCap := 65536 }

/-- The constant read from ID (10_state.md R40). -/
def idWord : Word := 0x48554631

/-- NSYM, the largest number of records in FT (00_scope.md R10). -/
def maxRecords : Nat := 256

/-- CODE_MAX, the largest code length in bits (00_scope.md R10). -/
def maxCodeLength : Nat := 255

end Sys2Proof
end

