-- ==== Sys2Proof/Syntax.lean ====
section
/-! DEFINITION. The instruction set: one constructor per row of spec/opcode_table.json (62 rows), in the table's order. -/

namespace Sys2Proof

/-- One host transaction, decoded (30_encoding.md R118). A constructor holds the operand bits its rule uses (R113);
the bits a transaction leaves unexamined are not part of the instruction. -/
inductive Instr where
  /-- NOP (R170) -/
  | nop
  /-- SRST (R171) -/
  | srst
  /-- ICLR (R172) -/
  | iclr
  /-- FCLR (R173) -/
  | fclr
  /-- FREQ (R180) -/
  | freq
  /-- BUILD (R190) -/
  | build
  /-- GENC (R210) -/
  | genc
  /-- PACK (R220) -/
  | pack
  /-- PARSE (R240) -/
  | parse
  /-- DECODE (R245) -/
  | decode
  /-- COMPRESS (R260) -/
  | compress
  /-- DECOMPRESS (R261) -/
  | decompress
  /-- CMD.ILLEGAL (R116) -/
  | cmdIllegal (word : Word)
  /-- WR.IN_PUSH (R143) -/
  | wrInPush (b : Byte)
  /-- WR.IN_SEL (R144) -/
  | wrInSel (index : Word)
  /-- WR.FT_SYM (R145) -/
  | wrFtSym (sym : Byte)
  /-- WR.FT_PUSH (R146) -/
  | wrFtPush (count : Word)
  /-- WR.FT_SEL (R147) -/
  | wrFtSel (index : Byte)
  /-- WR.NODE_SEL (R148) -/
  | wrNodeSel (index : NodeIndex)
  /-- WR.CT_SEL (R149) -/
  | wrCtSel (sym : Byte)
  /-- WR.OUT_SEL (R150) -/
  | wrOutSel (index : Word)
  /-- RD.STATUS (R34) -/
  | rdStatus
  /-- RD.ERR (R37) -/
  | rdErr
  /-- RD.ERR_INFO (R38) -/
  | rdErrInfo
  /-- RD.ID (R40) -/
  | rdId
  /-- RD.CAP_IN (R41) -/
  | rdCapIn
  /-- RD.CAP_OUT (R42) -/
  | rdCapOut
  /-- RD.IN_LEN (R43) -/
  | rdInLen
  /-- RD.IN_SEL (R44) -/
  | rdInSel
  /-- RD.IN_DATA (R44) -/
  | rdInData
  /-- RD.FT_SYM (R47) -/
  | rdFtSym
  /-- RD.FT_COUNT (R45) -/
  | rdFtCount
  /-- RD.FT_SEL (R47) -/
  | rdFtSel
  /-- RD.FT_RSYM (R47) -/
  | rdFtRsym
  /-- RD.FT_RCNT (R47) -/
  | rdFtRcnt
  /-- RD.FT_TOTAL_LO (R48) -/
  | rdFtTotalLo
  /-- RD.FT_TOTAL_HI (R48) -/
  | rdFtTotalHi
  /-- RD.NODE_SEL (R51) -/
  | rdNodeSel
  /-- RD.NODE_INFO (R51) -/
  | rdNodeInfo
  /-- RD.NODE_FREQ_LO (R51) -/
  | rdNodeFreqLo
  /-- RD.NODE_FREQ_HI (R51) -/
  | rdNodeFreqHi
  /-- RD.NODE_COUNT (R49) -/
  | rdNodeCount
  /-- RD.ROOT (R49) -/
  | rdRoot
  /-- RD.CT_SEL (R53) -/
  | rdCtSel
  /-- RD.CT_LEN (R53) -/
  | rdCtLen
  /-- RD.CT_BITS0 (R53) -/
  | rdCtBits0
  /-- RD.CT_BITS1 (R53) -/
  | rdCtBits1
  /-- RD.CT_BITS2 (R53) -/
  | rdCtBits2
  /-- RD.CT_BITS3 (R53) -/
  | rdCtBits3
  /-- RD.CT_BITS4 (R53) -/
  | rdCtBits4
  /-- RD.CT_BITS5 (R53) -/
  | rdCtBits5
  /-- RD.CT_BITS6 (R53) -/
  | rdCtBits6
  /-- RD.CT_BITS7 (R53) -/
  | rdCtBits7
  /-- RD.OUT_LEN (R54) -/
  | rdOutLen
  /-- RD.OUT_SEL (R54) -/
  | rdOutSel
  /-- RD.OUT_DATA (R54) -/
  | rdOutData
  /-- RD.HDR_END (R55) -/
  | rdHdrEnd
  /-- RD.PAD (R56) -/
  | rdPad
  /-- RD.DBITS_LO (R57) -/
  | rdDbitsLo
  /-- RD.DBITS_HI (R57) -/
  | rdDbitsHi
  /-- WR.IGNORED (R151) -/
  | wrIgnored (addr : RegAddr) (wdata : Word)
  /-- RD.ZERO (R153) -/
  | rdZero (addr : RegAddr)
deriving DecidableEq, Repr

/-- The row of spec/opcode_table.json a constructor stands for. -/
def Instr.mnemonic : Instr → String
  | .nop => "NOP"
  | .srst => "SRST"
  | .iclr => "ICLR"
  | .fclr => "FCLR"
  | .freq => "FREQ"
  | .build => "BUILD"
  | .genc => "GENC"
  | .pack => "PACK"
  | .parse => "PARSE"
  | .decode => "DECODE"
  | .compress => "COMPRESS"
  | .decompress => "DECOMPRESS"
  | .cmdIllegal _ => "CMD.ILLEGAL"
  | .wrInPush _ => "WR.IN_PUSH"
  | .wrInSel _ => "WR.IN_SEL"
  | .wrFtSym _ => "WR.FT_SYM"
  | .wrFtPush _ => "WR.FT_PUSH"
  | .wrFtSel _ => "WR.FT_SEL"
  | .wrNodeSel _ => "WR.NODE_SEL"
  | .wrCtSel _ => "WR.CT_SEL"
  | .wrOutSel _ => "WR.OUT_SEL"
  | .rdStatus => "RD.STATUS"
  | .rdErr => "RD.ERR"
  | .rdErrInfo => "RD.ERR_INFO"
  | .rdId => "RD.ID"
  | .rdCapIn => "RD.CAP_IN"
  | .rdCapOut => "RD.CAP_OUT"
  | .rdInLen => "RD.IN_LEN"
  | .rdInSel => "RD.IN_SEL"
  | .rdInData => "RD.IN_DATA"
  | .rdFtSym => "RD.FT_SYM"
  | .rdFtCount => "RD.FT_COUNT"
  | .rdFtSel => "RD.FT_SEL"
  | .rdFtRsym => "RD.FT_RSYM"
  | .rdFtRcnt => "RD.FT_RCNT"
  | .rdFtTotalLo => "RD.FT_TOTAL_LO"
  | .rdFtTotalHi => "RD.FT_TOTAL_HI"
  | .rdNodeSel => "RD.NODE_SEL"
  | .rdNodeInfo => "RD.NODE_INFO"
  | .rdNodeFreqLo => "RD.NODE_FREQ_LO"
  | .rdNodeFreqHi => "RD.NODE_FREQ_HI"
  | .rdNodeCount => "RD.NODE_COUNT"
  | .rdRoot => "RD.ROOT"
  | .rdCtSel => "RD.CT_SEL"
  | .rdCtLen => "RD.CT_LEN"
  | .rdCtBits0 => "RD.CT_BITS0"
  | .rdCtBits1 => "RD.CT_BITS1"
  | .rdCtBits2 => "RD.CT_BITS2"
  | .rdCtBits3 => "RD.CT_BITS3"
  | .rdCtBits4 => "RD.CT_BITS4"
  | .rdCtBits5 => "RD.CT_BITS5"
  | .rdCtBits6 => "RD.CT_BITS6"
  | .rdCtBits7 => "RD.CT_BITS7"
  | .rdOutLen => "RD.OUT_LEN"
  | .rdOutSel => "RD.OUT_SEL"
  | .rdOutData => "RD.OUT_DATA"
  | .rdHdrEnd => "RD.HDR_END"
  | .rdPad => "RD.PAD"
  | .rdDbitsLo => "RD.DBITS_LO"
  | .rdDbitsHi => "RD.DBITS_HI"
  | .wrIgnored _ _ => "WR.IGNORED"
  | .rdZero _ => "RD.ZERO"

/-- One row of spec/opcode_table.json: the row takes the words T with (T and mask) = pattern (30_encoding.md R118). -/
structure OpcodeRow where
  mnemonic : String
  pattern : Transaction
  mask : Transaction
deriving DecidableEq, Repr

end Sys2Proof
end

