-- ==== Sys2Proof/WellFormed.lean ====
section
/-! DEFINITION. Well-formed instructions: the operand values an encoding admits (30_encoding.md R116 to R118). -/

namespace Sys2Proof

/-- The twelve command words of 30_encoding.md R115. -/
def commandWords : List Word :=
  [0x00000000, 0x00000001, 0x00000002, 0x00000003, 0x00000010, 0x00000011, 0x00000012, 0x00000013, 0x00000014, 0x00000015, 0x00000020, 0x00000021]

/-- The writable addresses of 20_memory.md R81. -/
def writableAddrs : List RegAddr := [0x00, 0x08, 0x0A, 0x10, 0x11, 0x13, 0x18, 0x20, 0x31]

/-- The readable addresses of 20_memory.md R81, 0x01 to 0x1D. -/
def readableAddrsLow : List RegAddr :=
  [0x01, 0x02, 0x03, 0x04, 0x05, 0x06, 0x09, 0x0A, 0x0B, 0x10, 0x12, 0x13, 0x14, 0x15, 0x16, 0x17, 0x18, 0x19, 0x1A, 0x1B, 0x1C, 0x1D]

/-- The readable addresses of 20_memory.md R81, 0x20 to 0x36. -/
def readableAddrsHigh : List RegAddr :=
  [0x20, 0x21, 0x22, 0x23, 0x24, 0x25, 0x26, 0x27, 0x28, 0x29, 0x30, 0x31, 0x32, 0x33, 0x34, 0x35, 0x36]

/-- The 39 readable addresses of 20_memory.md R81. -/
def readableAddrs : List RegAddr := readableAddrsLow ++ readableAddrsHigh

/-- An instruction is well formed when some word encodes it: CMD.ILLEGAL holds no command word, WR.IGNORED no writable
address, RD.ZERO no readable address; every other row admits every value of its operand. -/
def Instr.wf : Instr → Bool
  | .cmdIllegal word => !commandWords.contains word
  | .wrIgnored addr _ => !writableAddrs.contains addr
  | .rdZero addr => !readableAddrs.contains addr
  | .nop => true
  | .srst => true
  | .iclr => true
  | .fclr => true
  | .freq => true
  | .build => true
  | .genc => true
  | .pack => true
  | .parse => true
  | .decode => true
  | .compress => true
  | .decompress => true
  | .wrInPush _ => true
  | .wrInSel _ => true
  | .wrFtSym _ => true
  | .wrFtPush _ => true
  | .wrFtSel _ => true
  | .wrNodeSel _ => true
  | .wrCtSel _ => true
  | .wrOutSel _ => true
  | .rdStatus => true
  | .rdErr => true
  | .rdErrInfo => true
  | .rdId => true
  | .rdCapIn => true
  | .rdCapOut => true
  | .rdInLen => true
  | .rdInSel => true
  | .rdInData => true
  | .rdFtSym => true
  | .rdFtCount => true
  | .rdFtSel => true
  | .rdFtRsym => true
  | .rdFtRcnt => true
  | .rdFtTotalLo => true
  | .rdFtTotalHi => true
  | .rdNodeSel => true
  | .rdNodeInfo => true
  | .rdNodeFreqLo => true
  | .rdNodeFreqHi => true
  | .rdNodeCount => true
  | .rdRoot => true
  | .rdCtSel => true
  | .rdCtLen => true
  | .rdCtBits0 => true
  | .rdCtBits1 => true
  | .rdCtBits2 => true
  | .rdCtBits3 => true
  | .rdCtBits4 => true
  | .rdCtBits5 => true
  | .rdCtBits6 => true
  | .rdCtBits7 => true
  | .rdOutLen => true
  | .rdOutSel => true
  | .rdOutData => true
  | .rdHdrEnd => true
  | .rdPad => true
  | .rdDbitsLo => true
  | .rdDbitsHi => true

end Sys2Proof
end

