-- ==== Sys2Proof/Decode.lean ====
section
/-! DEFINITION. The decoder (30_encoding.md R110 to R118), total on every transaction word; the encoder, written from
the same tables of the spec; the ordered rows of spec/opcode_table.json. -/

namespace Sys2Proof

/-! ## Fields of the transaction word (R110) and of WDATA (R113) -/

/-- W: true for a write. -/
def isWrite (t : Transaction) : Bool := t.getLsbD 40

/-- ADDR, bits 39:32. -/
def addrOf (t : Transaction) : RegAddr := t.extractLsb' 32 8

/-- WDATA, bits 31:0. -/
def wdataOf (t : Transaction) : Word := t.extractLsb' 0 32

/-- WDATA[7:0]. -/
def byteOf (d : Word) : Byte := d.extractLsb' 0 8

/-- WDATA[8:0]. -/
def indexOf (d : Word) : NodeIndex := d.extractLsb' 0 9

/-- The word {1, ADDR, WDATA} of a write. -/
def writeWord (a : RegAddr) (d : Word) : Transaction := 1#1 ++ a ++ d

/-- The word {0, ADDR, 0} of a read (30_encoding.md R130). -/
def readWord (a : RegAddr) : Transaction := 0#1 ++ a ++ 0#32

/-! ## Decoding -/

/-- The twelve command words (30_encoding.md R115). -/
def commandTable : List (Word × Instr) :=
  [(0x00000000, .nop),
   (0x00000001, .srst),
   (0x00000002, .iclr),
   (0x00000003, .fclr),
   (0x00000010, .freq),
   (0x00000011, .build),
   (0x00000012, .genc),
   (0x00000013, .pack),
   (0x00000014, .parse),
   (0x00000015, .decode),
   (0x00000020, .compress),
   (0x00000021, .decompress)]

/-- A write to CMD: a word that is none of the twelve is illegal, whatever it is (R114, R116). -/
def decodeCommand (d : Word) : Instr := (commandTable.lookup d).getD (.cmdIllegal d)

/-- The eight register writes and the operand each takes from WDATA (20_memory.md R81, 30_encoding.md R113). -/
def writeTable : List (RegAddr × (Word → Instr)) :=
  [(0x08, fun d => .wrInPush (byteOf d)),
   (0x0A, fun d => .wrInSel d),
   (0x10, fun d => .wrFtSym (byteOf d)),
   (0x11, fun d => .wrFtPush d),
   (0x13, fun d => .wrFtSel (byteOf d)),
   (0x18, fun d => .wrNodeSel (indexOf d)),
   (0x20, fun d => .wrCtSel (byteOf d)),
   (0x31, fun d => .wrOutSel d)]

/-- A write: to CMD, to one of the eight registers, or ignored (R118). -/
def decodeWrite (a : RegAddr) (d : Word) : Instr :=
  if a = 0x00 then decodeCommand d
  else match writeTable.lookup a with
    | some make => make d
    | none => .wrIgnored a d

/-- Status, error and constant registers. -/
def readTableStatus : List (RegAddr × Instr) :=
  [(0x01, .rdStatus),
   (0x02, .rdErr),
   (0x03, .rdErrInfo),
   (0x04, .rdId),
   (0x05, .rdCapIn),
   (0x06, .rdCapOut)]

/-- Input buffer registers. -/
def readTableInput : List (RegAddr × Instr) :=
  [(0x09, .rdInLen),
   (0x0A, .rdInSel),
   (0x0B, .rdInData)]

/-- Frequency table registers. -/
def readTableFt : List (RegAddr × Instr) :=
  [(0x10, .rdFtSym),
   (0x12, .rdFtCount),
   (0x13, .rdFtSel),
   (0x14, .rdFtRsym),
   (0x15, .rdFtRcnt),
   (0x16, .rdFtTotalLo),
   (0x17, .rdFtTotalHi)]

/-- Node arena registers. -/
def readTableNode : List (RegAddr × Instr) :=
  [(0x18, .rdNodeSel),
   (0x19, .rdNodeInfo),
   (0x1A, .rdNodeFreqLo),
   (0x1B, .rdNodeFreqHi),
   (0x1C, .rdNodeCount),
   (0x1D, .rdRoot)]

/-- Code table registers. -/
def readTableCode : List (RegAddr × Instr) :=
  [(0x20, .rdCtSel),
   (0x21, .rdCtLen),
   (0x22, .rdCtBits0),
   (0x23, .rdCtBits1),
   (0x24, .rdCtBits2),
   (0x25, .rdCtBits3),
   (0x26, .rdCtBits4),
   (0x27, .rdCtBits5),
   (0x28, .rdCtBits6),
   (0x29, .rdCtBits7)]

/-- Output and result registers. -/
def readTableOutput : List (RegAddr × Instr) :=
  [(0x30, .rdOutLen),
   (0x31, .rdOutSel),
   (0x32, .rdOutData),
   (0x33, .rdHdrEnd),
   (0x34, .rdPad),
   (0x35, .rdDbitsLo),
   (0x36, .rdDbitsHi)]

/-- The 39 readable registers (20_memory.md R81). -/
def readTable : List (RegAddr × Instr) :=
  readTableStatus ++ readTableInput ++ readTableFt ++ readTableNode ++ readTableCode ++ readTableOutput

/-- A read of a readable register, or of anything else (30_encoding.md R118). -/
def decodeRead (a : RegAddr) : Instr := (readTable.lookup a).getD (.rdZero a)

/-- Decoding is total: every 41-bit word has exactly one meaning (R118). -/
def decode (t : Transaction) : Instr :=
  if isWrite t then decodeWrite (addrOf t) (wdataOf t) else decodeRead (addrOf t)

/-- Why a number is not decoded. -/
inductive DecodeReject where
  /-- The number has a bit above bit 40: it is no transaction word (R110 gives every transaction 41 bits). -/
  | widerThanATransaction
deriving DecidableEq, Repr

/-- Decode a number: a 41-bit transaction word, or rejected by name. -/
def decodeNat (w : Nat) : Except DecodeReject Instr :=
  if w < 2 ^ 41 then .ok (decode (BitVec.ofNat 41 w)) else .error .widerThanATransaction

/-- The instruction read from the low `nbits` bits of `w`, numbered as spec/opcode_table.json numbers them (bit 0 is
WDATA[0], bit 40 is W; log entry 11). -/
def decodeTableWord (nbits w : Nat) : Option Instr :=
  match decodeNat (w % 2 ^ nbits) with
  | .ok i => some i
  | .error _ => none

/-! ## Encoding -/

/-- The transaction word of an instruction; bits the rule leaves unexamined are 0. -/
def encode : Instr → Transaction
  | .nop => writeWord 0x00 0x00000000
  | .srst => writeWord 0x00 0x00000001
  | .iclr => writeWord 0x00 0x00000002
  | .fclr => writeWord 0x00 0x00000003
  | .freq => writeWord 0x00 0x00000010
  | .build => writeWord 0x00 0x00000011
  | .genc => writeWord 0x00 0x00000012
  | .pack => writeWord 0x00 0x00000013
  | .parse => writeWord 0x00 0x00000014
  | .decode => writeWord 0x00 0x00000015
  | .compress => writeWord 0x00 0x00000020
  | .decompress => writeWord 0x00 0x00000021
  | .cmdIllegal word => writeWord 0x00 word
  | .wrInPush b => writeWord 0x08 (b.setWidth 32)
  | .wrInSel index => writeWord 0x0A index
  | .wrFtSym sym => writeWord 0x10 (sym.setWidth 32)
  | .wrFtPush count => writeWord 0x11 count
  | .wrFtSel index => writeWord 0x13 (index.setWidth 32)
  | .wrNodeSel index => writeWord 0x18 (index.setWidth 32)
  | .wrCtSel sym => writeWord 0x20 (sym.setWidth 32)
  | .wrOutSel index => writeWord 0x31 index
  | .rdStatus => readWord 0x01
  | .rdErr => readWord 0x02
  | .rdErrInfo => readWord 0x03
  | .rdId => readWord 0x04
  | .rdCapIn => readWord 0x05
  | .rdCapOut => readWord 0x06
  | .rdInLen => readWord 0x09
  | .rdInSel => readWord 0x0A
  | .rdInData => readWord 0x0B
  | .rdFtSym => readWord 0x10
  | .rdFtCount => readWord 0x12
  | .rdFtSel => readWord 0x13
  | .rdFtRsym => readWord 0x14
  | .rdFtRcnt => readWord 0x15
  | .rdFtTotalLo => readWord 0x16
  | .rdFtTotalHi => readWord 0x17
  | .rdNodeSel => readWord 0x18
  | .rdNodeInfo => readWord 0x19
  | .rdNodeFreqLo => readWord 0x1A
  | .rdNodeFreqHi => readWord 0x1B
  | .rdNodeCount => readWord 0x1C
  | .rdRoot => readWord 0x1D
  | .rdCtSel => readWord 0x20
  | .rdCtLen => readWord 0x21
  | .rdCtBits0 => readWord 0x22
  | .rdCtBits1 => readWord 0x23
  | .rdCtBits2 => readWord 0x24
  | .rdCtBits3 => readWord 0x25
  | .rdCtBits4 => readWord 0x26
  | .rdCtBits5 => readWord 0x27
  | .rdCtBits6 => readWord 0x28
  | .rdCtBits7 => readWord 0x29
  | .rdOutLen => readWord 0x30
  | .rdOutSel => readWord 0x31
  | .rdOutData => readWord 0x32
  | .rdHdrEnd => readWord 0x33
  | .rdPad => readWord 0x34
  | .rdDbitsLo => readWord 0x35
  | .rdDbitsHi => readWord 0x36
  | .wrIgnored addr wdata => writeWord addr wdata
  | .rdZero addr => readWord addr

/-! ## The rows of spec/opcode_table.json, in order -/

/-- The twelve command rows, which examine every bit. -/
def commandRows : List OpcodeRow :=
  [⟨"NOP", 0x10000000000, 0x1FFFFFFFFFF⟩,
   ⟨"SRST", 0x10000000001, 0x1FFFFFFFFFF⟩,
   ⟨"ICLR", 0x10000000002, 0x1FFFFFFFFFF⟩,
   ⟨"FCLR", 0x10000000003, 0x1FFFFFFFFFF⟩,
   ⟨"FREQ", 0x10000000010, 0x1FFFFFFFFFF⟩,
   ⟨"BUILD", 0x10000000011, 0x1FFFFFFFFFF⟩,
   ⟨"GENC", 0x10000000012, 0x1FFFFFFFFFF⟩,
   ⟨"PACK", 0x10000000013, 0x1FFFFFFFFFF⟩,
   ⟨"PARSE", 0x10000000014, 0x1FFFFFFFFFF⟩,
   ⟨"DECODE", 0x10000000015, 0x1FFFFFFFFFF⟩,
   ⟨"COMPRESS", 0x10000000020, 0x1FFFFFFFFFF⟩,
   ⟨"DECOMPRESS", 0x10000000021, 0x1FFFFFFFFFF⟩]

/-- Any other write to CMD. -/
def illegalRows : List OpcodeRow :=
  [⟨"CMD.ILLEGAL", 0x10000000000, 0x1FF00000000⟩]

/-- The eight register-write rows, which examine W and ADDR. -/
def writeRows : List OpcodeRow :=
  [⟨"WR.IN_PUSH", 0x10800000000, 0x1FF00000000⟩,
   ⟨"WR.IN_SEL", 0x10A00000000, 0x1FF00000000⟩,
   ⟨"WR.FT_SYM", 0x11000000000, 0x1FF00000000⟩,
   ⟨"WR.FT_PUSH", 0x11100000000, 0x1FF00000000⟩,
   ⟨"WR.FT_SEL", 0x11300000000, 0x1FF00000000⟩,
   ⟨"WR.NODE_SEL", 0x11800000000, 0x1FF00000000⟩,
   ⟨"WR.CT_SEL", 0x12000000000, 0x1FF00000000⟩,
   ⟨"WR.OUT_SEL", 0x13100000000, 0x1FF00000000⟩]

/-- The register-read rows, ADDR 0x01 to 0x1D. -/
def readRowsLow : List OpcodeRow :=
  [⟨"RD.STATUS", 0x00100000000, 0x1FF00000000⟩,
   ⟨"RD.ERR", 0x00200000000, 0x1FF00000000⟩,
   ⟨"RD.ERR_INFO", 0x00300000000, 0x1FF00000000⟩,
   ⟨"RD.ID", 0x00400000000, 0x1FF00000000⟩,
   ⟨"RD.CAP_IN", 0x00500000000, 0x1FF00000000⟩,
   ⟨"RD.CAP_OUT", 0x00600000000, 0x1FF00000000⟩,
   ⟨"RD.IN_LEN", 0x00900000000, 0x1FF00000000⟩,
   ⟨"RD.IN_SEL", 0x00A00000000, 0x1FF00000000⟩,
   ⟨"RD.IN_DATA", 0x00B00000000, 0x1FF00000000⟩,
   ⟨"RD.FT_SYM", 0x01000000000, 0x1FF00000000⟩,
   ⟨"RD.FT_COUNT", 0x01200000000, 0x1FF00000000⟩,
   ⟨"RD.FT_SEL", 0x01300000000, 0x1FF00000000⟩,
   ⟨"RD.FT_RSYM", 0x01400000000, 0x1FF00000000⟩,
   ⟨"RD.FT_RCNT", 0x01500000000, 0x1FF00000000⟩,
   ⟨"RD.FT_TOTAL_LO", 0x01600000000, 0x1FF00000000⟩,
   ⟨"RD.FT_TOTAL_HI", 0x01700000000, 0x1FF00000000⟩,
   ⟨"RD.NODE_SEL", 0x01800000000, 0x1FF00000000⟩,
   ⟨"RD.NODE_INFO", 0x01900000000, 0x1FF00000000⟩,
   ⟨"RD.NODE_FREQ_LO", 0x01A00000000, 0x1FF00000000⟩,
   ⟨"RD.NODE_FREQ_HI", 0x01B00000000, 0x1FF00000000⟩,
   ⟨"RD.NODE_COUNT", 0x01C00000000, 0x1FF00000000⟩,
   ⟨"RD.ROOT", 0x01D00000000, 0x1FF00000000⟩]

/-- The register-read rows, ADDR 0x20 to 0x36. -/
def readRowsHigh : List OpcodeRow :=
  [⟨"RD.CT_SEL", 0x02000000000, 0x1FF00000000⟩,
   ⟨"RD.CT_LEN", 0x02100000000, 0x1FF00000000⟩,
   ⟨"RD.CT_BITS0", 0x02200000000, 0x1FF00000000⟩,
   ⟨"RD.CT_BITS1", 0x02300000000, 0x1FF00000000⟩,
   ⟨"RD.CT_BITS2", 0x02400000000, 0x1FF00000000⟩,
   ⟨"RD.CT_BITS3", 0x02500000000, 0x1FF00000000⟩,
   ⟨"RD.CT_BITS4", 0x02600000000, 0x1FF00000000⟩,
   ⟨"RD.CT_BITS5", 0x02700000000, 0x1FF00000000⟩,
   ⟨"RD.CT_BITS6", 0x02800000000, 0x1FF00000000⟩,
   ⟨"RD.CT_BITS7", 0x02900000000, 0x1FF00000000⟩,
   ⟨"RD.OUT_LEN", 0x03000000000, 0x1FF00000000⟩,
   ⟨"RD.OUT_SEL", 0x03100000000, 0x1FF00000000⟩,
   ⟨"RD.OUT_DATA", 0x03200000000, 0x1FF00000000⟩,
   ⟨"RD.HDR_END", 0x03300000000, 0x1FF00000000⟩,
   ⟨"RD.PAD", 0x03400000000, 0x1FF00000000⟩,
   ⟨"RD.DBITS_LO", 0x03500000000, 0x1FF00000000⟩,
   ⟨"RD.DBITS_HI", 0x03600000000, 0x1FF00000000⟩]

/-- The two rows that take every word no earlier row took. -/
def catchAllRows : List OpcodeRow :=
  [⟨"WR.IGNORED", 0x10000000000, 0x10000000000⟩,
   ⟨"RD.ZERO", 0x00000000000, 0x10000000000⟩]

/-- The 62 ordered rows (R118). -/
def opcodeTable : List OpcodeRow :=
  commandRows ++ illegalRows ++ writeRows ++ readRowsLow ++ readRowsHigh ++ catchAllRows

/-- A row takes a word: (T and mask) = pattern (R118). -/
def OpcodeRow.takes (r : OpcodeRow) (t : Transaction) : Bool := (t &&& r.mask) == r.pattern

/-- The kind of a word: the mnemonic of the first row that takes it (R118). -/
def firstRowKind (t : Transaction) : Option String :=
  (opcodeTable.find? (fun r => r.takes t)).map OpcodeRow.mnemonic

end Sys2Proof
end

