-- ==== Sys2Proof/Machine/State.lean ====
section
/-! DEFINITION. The machine's state as plain data: the block's state exactly as 10_state.md R30 lists it, the open
parameters, and the host's side of the bus. -/

namespace Sys2Proof.Machine

/-- A memory as (index, content) pairs in one canonical form (`Cells.wf` in Machine/Ops.lean): indices strictly rising,
and no entry equal to what an unlisted index reads as. -/
abbrev Cells (α : Type) := List (Nat × α)

/-- A byte memory, IBUF or OBUF (10_state.md R43, R54). -/
abbrev Memory := List Host.Cell

/-- A record of FT (10_state.md R45). -/
structure FtRecord where
  sym : Byte
  cnt : Word
deriving DecidableEq, Repr

/-- A record of NODE (10_state.md R49). -/
structure Node where
  leaf : Bool
  sym : Byte
  left : NodeIndex
  right : NodeIndex
  freq : Freq
deriving DecidableEq, Repr

/-- A record of CT (10_state.md R52). The first bit of the code is bit len-1 of val. -/
structure CtEntry where
  valid : Bool
  len : BitVec 8
  val : BitVec 255
deriving DecidableEq, Repr

/-- What an index of a byte memory reads as when nothing is listed for it. The spec leaves the contents unspecified and
unobservable and lets a model hold zeros (10_state.md R75, 93_implementation_defined.md U16; log entry 4). -/
def unwrittenByte : Byte := 0

/-- What an unlisted index of FT reads as (log entry 4). -/
def blankRecord : FtRecord := { sym := 0, cnt := 0 }

/-- What an unlisted index of NODE reads as (log entry 4). -/
def blankNode : Node := { leaf := false, sym := 0, left := 0, right := 0, freq := 0 }

/-- What an unlisted symbol of CT reads as: no code (44_genc.md R210 begins by clearing every valid bit). -/
def noCode : CtEntry := { valid := false, len := 0, val := 0 }

/-- The block's state between two transactions: exactly the components of 10_state.md R30. -/
structure Block where
  /-- STATUS.ERR (R34). -/
  err : Bool
  /-- STATUS.HDR_VALID (R34). -/
  hdrValid : Bool
  /-- STATUS.TREE_VALID (R34). -/
  treeValid : Bool
  /-- STATUS.CT_VALID (R34). -/
  ctValid : Bool
  /-- STATUS.OUT_VALID (R34). -/
  outValid : Bool
  /-- ERR_CODE (R36). -/
  errCode : BitVec 8
  /-- ERR_INFO (R38). -/
  errInfo : Word
  /-- IN_LEN (R43). -/
  inLen : Word
  /-- IN_SEL (R44). -/
  inSel : Word
  /-- IBUF (R43). -/
  ibuf : Memory
  /-- FT_SYM (R47). -/
  ftSym : Byte
  /-- FT_COUNT, 0 to 256 (R45). -/
  ftCount : BitVec 9
  /-- FT_SEL (R47). -/
  ftSel : BitVec 8
  /-- FT (R45). -/
  ft : Cells FtRecord
  /-- NODE_SEL (R51). -/
  nodeSel : NodeIndex
  /-- NODE_COUNT, 0 to 511 (R49). -/
  nodeCount : BitVec 9
  /-- ROOT (R49). -/
  root : NodeIndex
  /-- NODE (R49). -/
  node : Cells Node
  /-- CT_SEL (R53). -/
  ctSel : BitVec 8
  /-- CT, indexed by symbol (R52). -/
  ct : Cells CtEntry
  /-- OUT_LEN (R54). -/
  outLen : Word
  /-- OUT_SEL (R54). -/
  outSel : Word
  /-- OBUF (R54). -/
  obuf : Memory
  /-- HDR_END (R55). -/
  hdrEnd : Word
  /-- PAD (R56). -/
  pad : BitVec 3
  /-- DBITS (R57). -/
  dbits : BitVec 40
deriving DecidableEq, Repr

/-- The state after a hard reset or SRST (10_state.md R75, 70_reset_and_hazards.md R350, R351): every register 0, every
flag 0, the memories empty. -/
def Block.reset : Block where
  err := false
  hdrValid := false
  treeValid := false
  ctValid := false
  outValid := false
  errCode := 0
  errInfo := 0
  inLen := 0
  inSel := 0
  ibuf := []
  ftSym := 0
  ftCount := 0
  ftSel := 0
  ft := []
  nodeSel := 0
  nodeCount := 0
  root := 0
  node := []
  ctSel := 0
  ct := []
  outLen := 0
  outSel := 0
  obuf := []
  hdrEnd := 0
  pad := 0
  dbits := 0

/-- What the outside can present to the block (00_scope.md R17, 30_encoding.md R111; log entries 2, 10). -/
inductive BusEvent where
  /-- The host presents one transaction word. -/
  | transaction (t : Transaction)
  /-- rst_n goes low and returns high (70_reset_and_hazards.md R350). -/
  | hardReset
deriving DecidableEq, Repr

/-- The host's side of the bus: the MODEL's own fields (log entries 2, 3), no state of the block. -/
structure HostSide where
  /-- The events not yet executed, oldest first: the host's program (00_scope.md R17). -/
  pending : List BusEvent
  /-- RDATA of the most recent read the host made; none before the first (30_encoding.md R110, R119). -/
  lastRead : Option Word
deriving DecidableEq, Repr

/-- The machine: the open parameters, the block, the host's side. -/
structure State where
  cfg : Config
  blk : Block
  bus : HostSide
deriving DecidableEq, Repr

/-- The machine with capacities `c` right after reset: nothing pending, nothing read. -/
def State.resetWith (c : Config) : State where
  cfg := c
  blk := Block.reset
  bus := { pending := [], lastRead := none }

/-- The machine right after reset. The block is as 10_state.md R75 says; the capacities are log entry 1's choice. -/
def State.reset : State := State.resetWith Config.usual

/-- The seventeen faults the block detects and records (60_exceptions.md R301). Recording one is a next state of the
machine (R310), not a stop of the model. -/
inductive FaultKind where
  /-- E_ILLEGAL_CMD -/
  | illegalCmd
  /-- E_SEQUENCE -/
  | sequence
  /-- E_EMPTY_TABLE -/
  | emptyTable
  /-- E_IN_OVERFLOW -/
  | inOverflow
  /-- E_FT_OVERFLOW -/
  | ftOverflow
  /-- E_OUT_OVERFLOW -/
  | outOverflow
  /-- E_FT_ZERO -/
  | ftZero
  /-- E_FT_DUP -/
  | ftDup
  /-- E_NO_CODE -/
  | noCode
  /-- E_FT_MISMATCH -/
  | ftMismatch
  /-- E_HDR_SHORT -/
  | hdrShort
  /-- E_HDR_COUNT -/
  | hdrCount
  /-- E_PAD_MISSING -/
  | padMissing
  /-- E_PAD_RANGE -/
  | padRange
  /-- E_PAD_EXCEEDS -/
  | padExceeds
  /-- E_LEN_MISMATCH -/
  | lenMismatch
  /-- E_TRUNCATED -/
  | truncated
deriving DecidableEq, Repr

/-- How a command or a push ends: it completes, or it raises a fault. Either way the block's state afterwards is exactly
defined (60_exceptions.md R311). -/
inductive Result where
  /-- The rule ran to its end; the state it leaves. -/
  | ok (b : Block)
  /-- The rule raised a fault; the state after fault entry (R310). -/
  | faulted (b : Block)
deriving DecidableEq, Repr

/-- Ways the MODEL stops with a fault: none. "Every transaction is a total function of the state before it and of the
transaction word" (00_scope.md R19), "no hang state exists for a model to represent" (70_reset_and_hazards.md R362), and
the block's own faults are recorded in its state (R310; log entry 9). -/
inductive Fault where
deriving DecidableEq, Repr

/-- Ways the MODEL refuses an instruction. -/
inductive Refusal where
  /-- Raised by exec's arm of an instruction that has no meaning yet (safe: the run stops). No arm raises it. -/
  | notModelled (mnemonic : String)
deriving DecidableEq, Repr

end Sys2Proof.Machine
end

