-- ==== Sys2Proof/Machine/Ops.lean ====
section
/-! DEFINITION. The named operations: memories, fault entry and its return, the ERR gate, the host's side of the bus. -/

namespace Sys2Proof.Machine

/-! ## Memories -/

/-- The content at index `a`; `d` is what an unlisted index reads as. -/
def Cells.read {α : Type} (d : α) : Cells α → Nat → α
  | [], _ => d
  | (b, w) :: m, a => if b = a then w else Cells.read d m a

/-- Put `v` at index `a`, keeping the canonical form. -/
def Cells.write {α : Type} [DecidableEq α] (d : α) : Cells α → Nat → α → Cells α
  | [], a, v => if v = d then [] else [(a, v)]
  | (b, w) :: m, a, v =>
    if a < b then (if v = d then (b, w) :: m else (a, v) :: (b, w) :: m)
    else if a = b then (if v = d then m else (a, v) :: m)
    else (b, w) :: Cells.write d m a v

/-- Put the contents `l` at indices `a`, `a + 1`, … -/
def Cells.writeList {α : Type} [DecidableEq α] (d : α) : Cells α → Nat → List α → Cells α
  | m, _, [] => m
  | m, a, v :: l => Cells.writeList d (Cells.write d m a v) (a + 1) l

/-- The memory that holds `l` from index 0 and nothing else. -/
def Cells.ofList {α : Type} [DecidableEq α] (d : α) (l : List α) : Cells α := Cells.writeList d [] 0 l

/-- The `n` contents from index `a`. -/
def Cells.slice {α : Type} (d : α) (m : Cells α) (a n : Nat) : List α :=
  (List.range n).map (fun i => Cells.read d m (a + i))

/-- The canonical form: indices strictly rising, no entry equal to what an unlisted index reads as. -/
def Cells.wf {α : Type} [DecidableEq α] (d : α) : Cells α → Bool
  | [] => true
  | [(_, w)] => decide (w ≠ d)
  | (b, w) :: (c, x) :: m => decide (w ≠ d) && decide (b < c) && Cells.wf d ((c, x) :: m)

/-- Every listed index lies below `n`. -/
def Cells.below {α : Type} (n : Nat) (m : Cells α) : Bool := m.all (fun c => decide (c.1 < n))

/-- One byte of IBUF or OBUF. -/
def Memory.read (m : Memory) (a : Nat) : Byte := Cells.read unwrittenByte m a

/-- Store one byte. -/
def Memory.write (m : Memory) (a : Nat) (v : Byte) : Memory := Cells.write unwrittenByte m a v

/-- The canonical form of a byte memory. -/
def Memory.wf (m : Memory) : Bool := Cells.wf unwrittenByte m

/-- The number whose digits to base 256, first most significant, are `l`. -/
def bigEndian (l : List Byte) : Nat := l.foldl (fun acc x => 256 * acc + x.toNat) 0

/-- The `n` bytes of `v`, most significant byte first. -/
def bytesOf : (n : Nat) → (v : Nat) → List Byte
  | 0, _ => []
  | n + 1, v => BitVec.ofNat 8 (v / 256 ^ n) :: bytesOf n v

/-- MemRead(M, a, n): the n bytes from a as one number, first byte most significant (00_scope.md R15). -/
def memRead (m : Memory) (a n : Nat) : Nat := bigEndian (Cells.slice unwrittenByte m a n)

/-- MemWrite(M, a, n, v): the n bytes of v from a, most significant byte first (00_scope.md R15). -/
def memWrite (m : Memory) (a n v : Nat) : Memory := Cells.writeList unwrittenByte m a (bytesOf n v)

/-! ## Fault codes, fault entry, return -/

/-- CODE (60_exceptions.md R301). -/
def FaultKind.code : FaultKind → BitVec 8
  | .illegalCmd => 0x01
  | .sequence => 0x02
  | .emptyTable => 0x03
  | .inOverflow => 0x04
  | .ftOverflow => 0x05
  | .outOverflow => 0x06
  | .ftZero => 0x10
  | .ftDup => 0x11
  | .noCode => 0x12
  | .ftMismatch => 0x13
  | .hdrShort => 0x20
  | .hdrCount => 0x21
  | .padMissing => 0x22
  | .padRange => 0x23
  | .padExceeds => 0x24
  | .lenMismatch => 0x25
  | .truncated => 0x30

/-- Fault entry, steps (2) and (3) of 60_exceptions.md R310: ERR_CODE, ERR_INFO (mod 2^32) and STATUS.ERR are written,
nothing else is. The clean-up of step (1) is done by the rule that raises. -/
def faultEntry (f : FaultKind) (info : Nat) (b : Block) : Block :=
  { b with errCode := f.code, errInfo := BitVec.ofNat 32 info, err := true }

/-- raise E(info) (00_scope.md R16): fault entry, and nothing of the rule after it. -/
def raise (f : FaultKind) (info : Nat) (b : Block) : Result := .faulted (faultEntry f info b)

/-- The return from the error state, SRST or a hard reset: the whole block in its reset state (60_exceptions.md R315,
41_control.md R171, 70_reset_and_hazards.md R350, R351). -/
def resetBlock (_ : Block) : Block := Block.reset

/-- The state a rule leaves, faulted or not. -/
def Result.block : Result → Block
  | .ok b => b
  | .faulted b => b

/-- Run the next rule on the state the previous one left; on a fault, stop (47_macro.md R262). -/
def Result.andThen (r : Result) (next : Block → Result) : Result :=
  match r with
  | .ok b => next b
  | .faulted b => .faulted b

/-! ## The block and the host's side -/

/-- Replace the block's state. -/
def State.withBlk (s : State) (b : Block) : State := { s with blk := b }

/-- Replace the events not yet executed. -/
def State.withPending (s : State) (p : List BusEvent) : State := { s with bus := { s.bus with pending := p } }

/-- A read yields RDATA and changes no state of the block (30_encoding.md R119, 20_memory.md R87). -/
def State.yieldRead (s : State) (v : Word) : State := { s with bus := { s.bus with lastRead := some v } }

/-- A data-changing write: ignored while STATUS.ERR = 1, else its rule (40_host_access.md R140, 60_exceptions.md R303,
30_encoding.md R119). -/
def State.gated (s : State) (rule : Config → Block → Result) : State :=
  if s.blk.err then s else s.withBlk (rule s.cfg s.blk).block

/-- The event the block executes next, and the machine with it taken off; none when nothing is presented. -/
def nextEvent (s : State) : Option (BusEvent × State) :=
  match s.bus.pending with
  | [] => none
  | e :: rest => some (e, s.withPending rest)

/-- A hard reset (70_reset_and_hazards.md R350). -/
def hardReset (s : State) : State := s.withBlk (resetBlock s.blk)

/-- The host presents `e` ahead of everything pending. -/
def present (e : BusEvent) (s : State) : State := s.withPending (e :: s.bus.pending)

end Sys2Proof.Machine
end

