-- ==== Sys2Proof/Machine/Flags.lean ====
section
/-! DEFINITION. The status flags: the STATUS word, the invalidation actions, the preconditions of the commands, and the
classification a fault code carries. -/

namespace Sys2Proof.Machine

/-- The five flags as STATUS places them: ERR bit 0, HDR_VALID 1, TREE_VALID 2, CT_VALID 3, OUT_VALID 4 (10_state.md R34). -/
def statusBits (b : Block) : BitVec 5 :=
  BitVec.ofBool b.outValid ++ BitVec.ofBool b.ctValid ++ BitVec.ofBool b.treeValid ++ BitVec.ofBool b.hdrValid
    ++ BitVec.ofBool b.err

/-- InvalidateTree() (10_state.md R66). NODE and CT hold nothing that is state once their flags are 0, so the model drops
their cells (R49, R52; log entry 5). -/
def invalidateTree (b : Block) : Block :=
  { b with treeValid := false, ctValid := false, nodeCount := 0, root := 0, node := [], ct := [] }

/-- InvalidateHeader() (10_state.md R67). -/
def invalidateHeader (b : Block) : Block := { b with hdrValid := false, hdrEnd := 0 }

/-- InvalidateOutput() (10_state.md R68). OBUF holds nothing that is state once OUT_LEN = 0 (R54; log entry 5). -/
def invalidateOutput (b : Block) : Block :=
  { b with outValid := false, outLen := 0, obuf := [], pad := 0, dbits := 0 }

/-- The flags GENC needs (10_state.md R69). -/
def gencReady (b : Block) : Bool := b.treeValid

/-- The flags PACK needs (10_state.md R69). -/
def packReady (b : Block) : Bool := decide (b.ftCount = 0) || b.ctValid

/-- The flags DECODE needs (10_state.md R69). -/
def decodeReady (b : Block) : Bool := b.hdrValid && (decide (b.ftCount = 0) || b.treeValid)

/-- Every fault code of 60_exceptions.md R301. -/
def allFaults : List FaultKind :=
  [.illegalCmd, .sequence, .emptyTable, .inOverflow, .ftOverflow, .outOverflow, .ftZero, .ftDup, .noCode, .ftMismatch,
   .hdrShort, .hdrCount, .padMissing, .padRange, .padExceeds, .lenMismatch, .truncated]

/-- The fault a code stands for; none for 0x00 and for a code that is never produced. -/
def faultOfCode (c : BitVec 8) : Option FaultKind := allFaults.find? (fun f => f.code == c)

/-- CLASS: 1 BAD_DATA, 3 USAGE, 4 CAPACITY; 2 (IO) is never produced (60_exceptions.md R301, R304). -/
def FaultKind.cls : FaultKind → BitVec 4
  | .illegalCmd => 3
  | .sequence => 3
  | .emptyTable => 3
  | .inOverflow => 4
  | .ftOverflow => 4
  | .outOverflow => 4
  | .ftZero => 1
  | .ftDup => 1
  | .noCode => 1
  | .ftMismatch => 1
  | .hdrShort => 1
  | .hdrCount => 1
  | .padMissing => 1
  | .padRange => 1
  | .padExceeds => 1
  | .lenMismatch => 1
  | .truncated => 1

/-- TAXON: 0 none, 1 MalformedContainer, 2 TruncatedStream (60_exceptions.md R301, R302). -/
def FaultKind.taxon : FaultKind → BitVec 4
  | .illegalCmd => 0
  | .sequence => 0
  | .emptyTable => 0
  | .inOverflow => 0
  | .ftOverflow => 0
  | .outOverflow => 0
  | .ftZero => 1
  | .ftDup => 1
  | .noCode => 0
  | .ftMismatch => 0
  | .hdrShort => 1
  | .hdrCount => 1
  | .padMissing => 1
  | .padRange => 1
  | .padExceeds => 1
  | .lenMismatch => 1
  | .truncated => 2

/-- ERR.CLASS, a function of CODE (10_state.md R37); 0 where the table has no row (log entry 16). -/
def classOfCode (c : BitVec 8) : BitVec 4 :=
  match faultOfCode c with
  | some f => f.cls
  | none => 0

/-- ERR.TAXON, a function of CODE (10_state.md R37); 0 where the table has no row (log entry 16). -/
def taxonOfCode (c : BitVec 8) : BitVec 4 :=
  match faultOfCode c with
  | some f => f.taxon
  | none => 0

/-- FTCheck over the records from index `k` on, `seen` being the symbols of the lower indices (10_state.md R46): the
lowest index at which a condition holds, and at that index the zero count before the repeated symbol. -/
def ftCheckFrom (k : Nat) (seen : List Byte) : List FtRecord → Option (FaultKind × Nat)
  | [] => none
  | r :: rs =>
    if r.cnt = 0 then some (.ftZero, k)
    else if seen.contains r.sym then some (.ftDup, k)
    else ftCheckFrom (k + 1) (r.sym :: seen) rs

/-- FTCheck() (10_state.md R46). -/
def ftCheck (recs : List FtRecord) : Option (FaultKind × Nat) := ftCheckFrom 0 [] recs

end Sys2Proof.Machine
end

