-- ==== Sys2Proof/Machine/Operands.lean ====
section
/-! DEFINITION. What the commands and the reads take from the state: the buffers and tables as sequences, the bit strings
of codes and bytes, and the word each readable register returns. -/

namespace Sys2Proof.Machine

/-! ## Buffers and tables -/

/-- IBUF[0..IN_LEN) (10_state.md R43). -/
def Block.input (b : Block) : List Byte := Cells.slice unwrittenByte b.ibuf 0 b.inLen.toNat

/-- OBUF[0..OUT_LEN) (10_state.md R54). -/
def Block.output (b : Block) : List Byte := Cells.slice unwrittenByte b.obuf 0 b.outLen.toNat

/-- FT[k]. -/
def Block.record (b : Block) (k : Nat) : FtRecord := Cells.read blankRecord b.ft k

/-- FT[0..FT_COUNT) (10_state.md R45). -/
def Block.records (b : Block) : List FtRecord := Cells.slice blankRecord b.ft 0 b.ftCount.toNat

/-- NODE[i]. -/
def Block.nodeAt (b : Block) (i : NodeIndex) : Node := Cells.read blankNode b.node i.toNat

/-- CT[s]. -/
def Block.code (b : Block) (s : Byte) : CtEntry := Cells.read noCode b.ct s.toNat

/-- The exact sum of the counts of a record list. -/
def totalOf (recs : List FtRecord) : Nat := (recs.map (fun r => r.cnt.toNat)).sum

/-- FT_TOTAL, a 40-bit view of FT (10_state.md R48). -/
def Block.ftTotal (b : Block) : BitVec 40 := BitVec.ofNat 40 (totalOf b.records)

/-! ## Bit strings (00_scope.md R14) -/

/-- The bits of a byte, most significant first: u8(v) (00_scope.md R14, 20_memory.md R85). -/
def byteBits (v : Byte) : List Bool :=
  [v.getLsbD 7, v.getLsbD 6, v.getLsbD 5, v.getLsbD 4, v.getLsbD 3, v.getLsbD 2, v.getLsbD 1, v.getLsbD 0]

/-- val(c): the number whose binary digits, most significant first, are the bits of c (00_scope.md R14). -/
def bitsVal (c : List Bool) : Nat := c.foldl (fun acc x => 2 * acc + x.toNat) 0

/-- The byte whose bit 7 down to bit 0 are the eight bits given (20_memory.md R85). -/
def byteOfBits (b7 b6 b5 b4 b3 b2 b1 b0 : Bool) : Byte :=
  BitVec.ofNat 8 (bitsVal [b7, b6, b5, b4, b3, b2, b1, b0])

/-- Cut a bit string into bytes, most significant bit first (20_memory.md R85, 45_pack.md R226). Fewer than eight bits
left over form no byte; 45_pack.md R227 says the packer leaves none over. -/
def packBits : List Bool → List Byte
  | b7 :: b6 :: b5 :: b4 :: b3 :: b2 :: b1 :: b0 :: rest => byteOfBits b7 b6 b5 b4 b3 b2 b1 b0 :: packBits rest
  | _ => []

/-- Expand bytes to a flat bit sequence, most significant bit first (46_unpack.md R246). -/
def expandBits (l : List Byte) : List Bool := l.flatMap byteBits

/-- The bit string of a CT entry: c[i] is bit len-1-i of val (10_state.md R52). -/
def codeBits (e : CtEntry) : List Bool :=
  (List.range e.len.toNat).map (fun i => e.val.getLsbD (e.len.toNat - 1 - i))

/-- The CT entry of a bit string: its length and its value (10_state.md R52). -/
def codeEntry (c : List Bool) : CtEntry :=
  { valid := true, len := BitVec.ofNat 8 c.length, val := BitVec.ofNat 255 (bitsVal c) }

/-! ## Register reads: the word each register's rule in 10_state.md gives (40_host_access.md R152) -/

/-- STATUS (R34): bits 31:5 read as 0. -/
def readStatus (b : Block) : Word := (statusBits b).setWidth 32

/-- ERR (R37): CODE in 7:0, CLASS in 11:8, TAXON in 15:12, 0 above. -/
def readErr (b : Block) : Word := 0#16 ++ taxonOfCode b.errCode ++ classOfCode b.errCode ++ b.errCode

/-- IN_DATA (R44): the byte IN_SEL selects, or 0 at and above IN_LEN. -/
def readInData (b : Block) : Word :=
  if b.inSel < b.inLen then (Memory.read b.ibuf b.inSel.toNat).setWidth 32 else 0

/-- FT_RSYM (R47). -/
def readFtRsym (b : Block) : Word :=
  if b.ftSel.toNat < b.ftCount.toNat then (b.record b.ftSel.toNat).sym.setWidth 32 else 0

/-- FT_RCNT (R47). -/
def readFtRcnt (b : Block) : Word :=
  if b.ftSel.toNat < b.ftCount.toNat then (b.record b.ftSel.toNat).cnt else 0

/-- FT_TOTAL_LO (R48). -/
def readFtTotalLo (b : Block) : Word := b.ftTotal.extractLsb' 0 32

/-- FT_TOTAL_HI (R48). -/
def readFtTotalHi (b : Block) : Word := (b.ftTotal.extractLsb' 32 8).setWidth 32

/-- The NODE_INFO word of a record: left in 8:0, right in 17:9, sym in 25:18, leaf in 26, 1 in 27, 0 above (R51). -/
def nodeInfo (n : Node) : Word := 0#4 ++ 1#1 ++ BitVec.ofBool n.leaf ++ n.sym ++ n.right ++ n.left

/-- NODE_INFO (R51). -/
def readNodeInfo (b : Block) : Word :=
  if b.nodeSel < b.nodeCount then nodeInfo (b.nodeAt b.nodeSel) else 0

/-- NODE_FREQ_LO (R51). -/
def readNodeFreqLo (b : Block) : Word :=
  if b.nodeSel < b.nodeCount then (b.nodeAt b.nodeSel).freq.extractLsb' 0 32 else 0

/-- NODE_FREQ_HI (R51). -/
def readNodeFreqHi (b : Block) : Word :=
  if b.nodeSel < b.nodeCount then ((b.nodeAt b.nodeSel).freq.extractLsb' 32 8).setWidth 32 else 0

/-- The entry CT_SEL selects has a code and CT is valid (R53). -/
def codePresent (b : Block) : Bool := b.ctValid && (b.code b.ctSel).valid

/-- CT_LEN (R53): bit 31 = 1, len in 7:0. -/
def readCtLen (b : Block) : Word := if codePresent b then 1#1 ++ 0#23 ++ (b.code b.ctSel).len else 0

/-- CT_BITSw (R53): bits 32w+31 : 32w of zext_256(val). -/
def readCtBits (w : Nat) (b : Block) : Word :=
  if codePresent b then ((b.code b.ctSel).val.setWidth 256).extractLsb' (32 * w) 32 else 0

/-- OUT_DATA (R54): the byte OUT_SEL selects, or 0 at and above OUT_LEN. -/
def readOutData (b : Block) : Word :=
  if b.outSel < b.outLen then (Memory.read b.obuf b.outSel.toNat).setWidth 32 else 0

/-- DBITS_LO (R57). -/
def readDbitsLo (b : Block) : Word := b.dbits.extractLsb' 0 32

/-- DBITS_HI (R57). -/
def readDbitsHi (b : Block) : Word := (b.dbits.extractLsb' 32 8).setWidth 32

end Sys2Proof.Machine
end

