-- ==== Sys2Proof/Machine/Control.lean ====
section
/-! DEFINITION. The control commands of 41_control.md and the illegal command (30_encoding.md R116). -/

namespace Sys2Proof.Machine

/-- NOP (R170). -/
def nop (_ : Config) (b : Block) : Result := .ok b

/-- ICLR: empty the input buffer (R172). IBUF's cells are no state at IN_LEN = 0 and are dropped (10_state.md R43; log
entry 5). -/
def iclr (_ : Config) (b : Block) : Result := .ok (invalidateHeader { b with inLen := 0, ibuf := [] })

/-- FCLR: empty the frequency table (R173). FT's cells are no state at FT_COUNT = 0 and are dropped (10_state.md R45; log
entry 5). -/
def fclr (_ : Config) (b : Block) : Result :=
  .ok (invalidateHeader (invalidateTree { b with ftCount := 0, ft := [] }))

/-- A write to CMD of a word that is no command raises E_ILLEGAL_CMD(WDATA) (30_encoding.md R116). -/
def illegalCommand (word : Word) (_ : Config) (b : Block) : Result := raise .illegalCmd word.toNat b

/-- NOP (R170). -/
def execNop (s : State) : Host.Outcome State Fault Refusal := .next (s.gated nop)

/-- SRST, the one command executed while STATUS.ERR = 1 (R171, 60_exceptions.md R315). -/
def execSrst (s : State) : Host.Outcome State Fault Refusal := .next (s.withBlk (resetBlock s.blk))

/-- ICLR (R172). -/
def execIclr (s : State) : Host.Outcome State Fault Refusal := .next (s.gated iclr)

/-- FCLR (R173). -/
def execFclr (s : State) : Host.Outcome State Fault Refusal := .next (s.gated fclr)

/-- CMD.ILLEGAL (30_encoding.md R116). -/
def execCmdIllegal (word : Word) (s : State) : Host.Outcome State Fault Refusal :=
  .next (s.gated (illegalCommand word))

end Sys2Proof.Machine
end

