-- ==== Sys2Proof/Machine/HostReads.lean ====
section
/-! DEFINITION. The register reads (40_host_access.md R152, R153): each yields the word its register's rule in
10_state.md gives, changes no state of the block, and is not gated by STATUS.ERR. -/

namespace Sys2Proof.Machine

/-- RD.STATUS (10_state.md R34). -/
def execRdStatus (s : State) : Host.Outcome State Fault Refusal := .next (s.yieldRead (readStatus s.blk))

/-- RD.ERR (10_state.md R37). -/
def execRdErr (s : State) : Host.Outcome State Fault Refusal := .next (s.yieldRead (readErr s.blk))

/-- RD.ERR_INFO (10_state.md R38). -/
def execRdErrInfo (s : State) : Host.Outcome State Fault Refusal := .next (s.yieldRead (s.blk.errInfo))

/-- RD.ID (10_state.md R40). -/
def execRdId (s : State) : Host.Outcome State Fault Refusal := .next (s.yieldRead idWord)

/-- RD.CAP_IN (10_state.md R41). -/
def execRdCapIn (s : State) : Host.Outcome State Fault Refusal := .next (s.yieldRead s.cfg.inCap)

/-- RD.CAP_OUT (10_state.md R42). -/
def execRdCapOut (s : State) : Host.Outcome State Fault Refusal := .next (s.yieldRead s.cfg.outCap)

/-- RD.IN_LEN (10_state.md R43). -/
def execRdInLen (s : State) : Host.Outcome State Fault Refusal := .next (s.yieldRead (s.blk.inLen))

/-- RD.IN_SEL (10_state.md R44). -/
def execRdInSel (s : State) : Host.Outcome State Fault Refusal := .next (s.yieldRead (s.blk.inSel))

/-- RD.IN_DATA (10_state.md R44). -/
def execRdInData (s : State) : Host.Outcome State Fault Refusal := .next (s.yieldRead (readInData s.blk))

/-- RD.FT_SYM (10_state.md R47). -/
def execRdFtSym (s : State) : Host.Outcome State Fault Refusal := .next (s.yieldRead (s.blk.ftSym.setWidth 32))

/-- RD.FT_COUNT (10_state.md R45). -/
def execRdFtCount (s : State) : Host.Outcome State Fault Refusal := .next (s.yieldRead (s.blk.ftCount.setWidth 32))

/-- RD.FT_SEL (10_state.md R47). -/
def execRdFtSel (s : State) : Host.Outcome State Fault Refusal := .next (s.yieldRead (s.blk.ftSel.setWidth 32))

/-- RD.FT_RSYM (10_state.md R47). -/
def execRdFtRsym (s : State) : Host.Outcome State Fault Refusal := .next (s.yieldRead (readFtRsym s.blk))

/-- RD.FT_RCNT (10_state.md R47). -/
def execRdFtRcnt (s : State) : Host.Outcome State Fault Refusal := .next (s.yieldRead (readFtRcnt s.blk))

/-- RD.FT_TOTAL_LO (10_state.md R48). -/
def execRdFtTotalLo (s : State) : Host.Outcome State Fault Refusal := .next (s.yieldRead (readFtTotalLo s.blk))

/-- RD.FT_TOTAL_HI (10_state.md R48). -/
def execRdFtTotalHi (s : State) : Host.Outcome State Fault Refusal := .next (s.yieldRead (readFtTotalHi s.blk))

/-- RD.NODE_SEL (10_state.md R51). -/
def execRdNodeSel (s : State) : Host.Outcome State Fault Refusal := .next (s.yieldRead (s.blk.nodeSel.setWidth 32))

/-- RD.NODE_INFO (10_state.md R51). -/
def execRdNodeInfo (s : State) : Host.Outcome State Fault Refusal := .next (s.yieldRead (readNodeInfo s.blk))

/-- RD.NODE_FREQ_LO (10_state.md R51). -/
def execRdNodeFreqLo (s : State) : Host.Outcome State Fault Refusal := .next (s.yieldRead (readNodeFreqLo s.blk))

/-- RD.NODE_FREQ_HI (10_state.md R51). -/
def execRdNodeFreqHi (s : State) : Host.Outcome State Fault Refusal := .next (s.yieldRead (readNodeFreqHi s.blk))

/-- RD.NODE_COUNT (10_state.md R49). -/
def execRdNodeCount (s : State) : Host.Outcome State Fault Refusal := .next (s.yieldRead (s.blk.nodeCount.setWidth 32))

/-- RD.ROOT (10_state.md R49). -/
def execRdRoot (s : State) : Host.Outcome State Fault Refusal := .next (s.yieldRead (s.blk.root.setWidth 32))

/-- RD.CT_SEL (10_state.md R53). -/
def execRdCtSel (s : State) : Host.Outcome State Fault Refusal := .next (s.yieldRead (s.blk.ctSel.setWidth 32))

/-- RD.CT_LEN (10_state.md R53). -/
def execRdCtLen (s : State) : Host.Outcome State Fault Refusal := .next (s.yieldRead (readCtLen s.blk))

/-- RD.CT_BITS0 (10_state.md R53). -/
def execRdCtBits0 (s : State) : Host.Outcome State Fault Refusal := .next (s.yieldRead (readCtBits 0 s.blk))

/-- RD.CT_BITS1 (10_state.md R53). -/
def execRdCtBits1 (s : State) : Host.Outcome State Fault Refusal := .next (s.yieldRead (readCtBits 1 s.blk))

/-- RD.CT_BITS2 (10_state.md R53). -/
def execRdCtBits2 (s : State) : Host.Outcome State Fault Refusal := .next (s.yieldRead (readCtBits 2 s.blk))

/-- RD.CT_BITS3 (10_state.md R53). -/
def execRdCtBits3 (s : State) : Host.Outcome State Fault Refusal := .next (s.yieldRead (readCtBits 3 s.blk))

/-- RD.CT_BITS4 (10_state.md R53). -/
def execRdCtBits4 (s : State) : Host.Outcome State Fault Refusal := .next (s.yieldRead (readCtBits 4 s.blk))

/-- RD.CT_BITS5 (10_state.md R53). -/
def execRdCtBits5 (s : State) : Host.Outcome State Fault Refusal := .next (s.yieldRead (readCtBits 5 s.blk))

/-- RD.CT_BITS6 (10_state.md R53). -/
def execRdCtBits6 (s : State) : Host.Outcome State Fault Refusal := .next (s.yieldRead (readCtBits 6 s.blk))

/-- RD.CT_BITS7 (10_state.md R53). -/
def execRdCtBits7 (s : State) : Host.Outcome State Fault Refusal := .next (s.yieldRead (readCtBits 7 s.blk))

/-- RD.OUT_LEN (10_state.md R54). -/
def execRdOutLen (s : State) : Host.Outcome State Fault Refusal := .next (s.yieldRead (s.blk.outLen))

/-- RD.OUT_SEL (10_state.md R54). -/
def execRdOutSel (s : State) : Host.Outcome State Fault Refusal := .next (s.yieldRead (s.blk.outSel))

/-- RD.OUT_DATA (10_state.md R54). -/
def execRdOutData (s : State) : Host.Outcome State Fault Refusal := .next (s.yieldRead (readOutData s.blk))

/-- RD.HDR_END (10_state.md R55). -/
def execRdHdrEnd (s : State) : Host.Outcome State Fault Refusal := .next (s.yieldRead (s.blk.hdrEnd))

/-- RD.PAD (10_state.md R56). -/
def execRdPad (s : State) : Host.Outcome State Fault Refusal := .next (s.yieldRead (s.blk.pad.setWidth 32))

/-- RD.DBITS_LO (10_state.md R57). -/
def execRdDbitsLo (s : State) : Host.Outcome State Fault Refusal := .next (s.yieldRead (readDbitsLo s.blk))

/-- RD.DBITS_HI (10_state.md R57). -/
def execRdDbitsHi (s : State) : Host.Outcome State Fault Refusal := .next (s.yieldRead (readDbitsHi s.blk))

/-- RD.ZERO: an unmapped or write-only address reads 0 (40_host_access.md R153, 20_memory.md R82). -/
def execRdZero (_ : RegAddr) (s : State) : Host.Outcome State Fault Refusal := .next (s.yieldRead 0)

end Sys2Proof.Machine
end

