-- ==== Sys2Proof/Machine/HostWrites.lean ====
section
/-! DEFINITION. The register writes of 40_host_access.md: the two pushes, the select and staging registers, the ignored
write. -/

namespace Sys2Proof.Machine

/-- Append one byte to IBUF (R143). -/
def inPush (x : Byte) (c : Config) (b : Block) : Result :=
  if b.inLen = c.inCap then raise .inOverflow b.inLen.toNat b
  else .ok (invalidateHeader
    { b with ibuf := Memory.write b.ibuf b.inLen.toNat x, inLen := b.inLen + 1 })

/-- Append one record to FT, stored as given (R146). -/
def ftPush (count : Word) (_ : Config) (b : Block) : Result :=
  if b.ftCount = 256 then raise .ftOverflow 256 b
  else .ok (invalidateHeader (invalidateTree
    { b with ft := Cells.write blankRecord b.ft b.ftCount.toNat { sym := b.ftSym, cnt := count },
             ftCount := b.ftCount + 1 }))

/-- WR.IN_PUSH (R143). -/
def execWrInPush (x : Byte) (s : State) : Host.Outcome State Fault Refusal := .next (s.gated (inPush x))

/-- WR.IN_SEL, not gated by ERR (R144). -/
def execWrInSel (index : Word) (s : State) : Host.Outcome State Fault Refusal :=
  .next (s.withBlk { s.blk with inSel := index })

/-- WR.FT_SYM, not gated by ERR (R145). -/
def execWrFtSym (sym : Byte) (s : State) : Host.Outcome State Fault Refusal :=
  .next (s.withBlk { s.blk with ftSym := sym })

/-- WR.FT_PUSH (R146). -/
def execWrFtPush (count : Word) (s : State) : Host.Outcome State Fault Refusal := .next (s.gated (ftPush count))

/-- WR.FT_SEL, not gated by ERR (R147). -/
def execWrFtSel (index : Byte) (s : State) : Host.Outcome State Fault Refusal :=
  .next (s.withBlk { s.blk with ftSel := index })

/-- WR.NODE_SEL, not gated by ERR (R148). -/
def execWrNodeSel (index : NodeIndex) (s : State) : Host.Outcome State Fault Refusal :=
  .next (s.withBlk { s.blk with nodeSel := index })

/-- WR.CT_SEL, not gated by ERR (R149). -/
def execWrCtSel (sym : Byte) (s : State) : Host.Outcome State Fault Refusal :=
  .next (s.withBlk { s.blk with ctSel := sym })

/-- WR.OUT_SEL, not gated by ERR (R150). -/
def execWrOutSel (index : Word) (s : State) : Host.Outcome State Fault Refusal :=
  .next (s.withBlk { s.blk with outSel := index })

/-- WR.IGNORED: changes nothing and raises nothing (R151, 20_memory.md R82). -/
def execWrIgnored (_ : RegAddr) (_ : Word) (s : State) : Host.Outcome State Fault Refusal := .next s

end Sys2Proof.Machine
end

