-- ==== Sys2Proof/Machine/Build.lean ====
section
/-! DEFINITION. The Tree Builder command BUILD (43_build.md): the priority structure PQ and the minimum merge. -/

namespace Sys2Proof.Machine

/-- NODE[i] of the arena under construction. -/
def arenaAt (arena : List Node) (i : Nat) : Node := arena.getD i blankNode

/-- The order of extraction: i is before j under key(i) = (NODE[i].freq, i) (R193). -/
def keyBefore (arena : List Node) (i j : Nat) : Bool :=
  decide ((arenaAt arena i).freq < (arenaAt arena j).freq)
    || (decide ((arenaAt arena i).freq = (arenaAt arena j).freq) && decide (i < j))

/-- The member of least key among `m` and the members of `pq` (R193). -/
def leastKey (arena : List Node) (m : Nat) : List Nat → Nat
  | [] => m
  | x :: pq => leastKey arena (if keyBefore arena x m then x else m) pq

/-- PQ.extract_min() on a set of node indices kept as a list: the member of least key, and the others; none when PQ is
empty (10_state.md R62, 43_build.md R193, R198; log entry 7). -/
def extractMin (arena : List Node) : List Nat → Option (Nat × List Nat)
  | [] => none
  | m :: pq => some (leastKey arena m pq, (m :: pq).erase (leastKey arena m pq))

/-- PQ.insert(i) (10_state.md R62). -/
def pqInsert (i : Nat) (pq : List Nat) : List Nat := pq ++ [i]

/-- The leaf made from a record of FT (R191). -/
def leafOf (r : FtRecord) : Node :=
  { leaf := true, sym := r.sym, left := 0, right := 0, freq := r.cnt.setWidth 40 }

/-- The internal node a merge makes: the first extracted is the left child, the second the right, the frequency the
40-bit sum (R192, R194). -/
def mergeNode (arena : List Node) (a b : Nat) : Node :=
  { leaf := false, sym := 0, left := BitVec.ofNat 9 a, right := BitVec.ofNat 9 b,
    freq := (arenaAt arena a).freq + (arenaAt arena b).freq }

/-- The loop "while |PQ| > 1" of R190, with at least as much fuel as PQ has members: each merge removes two members and
adds one, the new node taking the next free index (R192). -/
def mergeLoop : (fuel : Nat) → (arena : List Node) → (pq : List Nat) → List Node × List Nat
  | 0, arena, pq => (arena, pq)
  | fuel + 1, arena, pq =>
    match extractMin arena pq with
    | none => (arena, pq)
    | some (a, pq1) =>
      match extractMin arena pq1 with
      | none => (arena, pq)
      | some (b, pq2) => mergeLoop fuel (arena ++ [mergeNode arena a b]) (pqInsert arena.length pq2)

/-- The synthetic root of a single-symbol table: both children are the one leaf, and the frequency is the leaf's
(R196). -/
def syntheticRoot (l : Node) : Node := { leaf := false, sym := 0, left := 0, right := 0, freq := l.freq }

/-- The arena and the root BUILD makes from a record list: a function of the list alone (R190 to R196, R203). -/
def buildTree (recs : List FtRecord) : List Node × Nat :=
  match recs with
  | [r] => ([leafOf r, syntheticRoot (leafOf r)], 1)
  | _ =>
    let merged := mergeLoop recs.length (recs.map leafOf) (List.range recs.length)
    (merged.1, ((extractMin merged.1 merged.2).map Prod.fst).getD 0)

/-- NODE, NODE_COUNT and ROOT after a successful BUILD, with TREE_VALID set and CT_VALID cleared (R190). CT's cells are no
state at CT_VALID = 0 and are dropped (10_state.md R52; log entry 5). -/
def storeTree (t : List Node × Nat) (b : Block) : Block :=
  { b with node := Cells.ofList blankNode t.1, nodeCount := BitVec.ofNat 9 t.1.length, root := BitVec.ofNat 9 t.2,
           treeValid := true, ctValid := false, ct := [] }

/-- BUILD (R190): the checks in the order of R200, each fault after InvalidateTree(); then the tree. -/
def build (_ : Config) (b : Block) : Result :=
  if b.ftCount = 0 then raise .emptyTable 0 (invalidateTree b)
  else match ftCheck b.records with
    | some (f, k) => raise f k (invalidateTree b)
    | none => .ok (storeTree (buildTree b.records) b)

/-- BUILD (R190). -/
def execBuild (s : State) : Host.Outcome State Fault Refusal := .next (s.gated build)

end Sys2Proof.Machine
end

