-- ==== Sys2Proof/Machine/Freq.lean ====
section
/-! DEFINITION. The Frequency Counter command FREQ (42_freq.md). -/

namespace Sys2Proof.Machine

/-- cnt[s]: the 32-bit counter of symbol `sym` after the scan of the input (R180). -/
def symbolCount (input : List Byte) (sym : Byte) : Word := BitVec.ofNat 32 (input.count sym)

/-- The records FREQ writes: one for each symbol counted, in ascending symbol order (R180, R181). -/
def countRecords (input : List Byte) : List FtRecord :=
  ((List.range 256).map (fun k => FtRecord.mk (BitVec.ofNat 8 k) (symbolCount input (BitVec.ofNat 8 k)))).filter
    (fun r => decide (r.cnt ≠ 0))

/-- Replace FT whole by `recs`. -/
def storeRecords (recs : List FtRecord) (b : Block) : Block :=
  { b with ft := Cells.ofList blankRecord recs, ftCount := BitVec.ofNat 9 recs.length }

/-- FREQ (R180). -/
def freq (_ : Config) (b : Block) : Result :=
  .ok (invalidateHeader (invalidateTree (storeRecords (countRecords b.input) b)))

/-- FREQ (R180). -/
def execFreq (s : State) : Host.Outcome State Fault Refusal := .next (s.gated freq)

end Sys2Proof.Machine
end

