-- ==== Sys2Proof/Machine/Genc.lean ====
section
/-! DEFINITION. The Code Table Generator command GENC (44_genc.md): the tree walk. -/

namespace Sys2Proof.Machine

/-- Record the code of symbol `sym` unless it has one: the first visit wins (R210, R213). -/
def recordCode (sym : Byte) (path : List Bool) (ct : Cells CtEntry) : Cells CtEntry :=
  if (Cells.read noCode ct sym.toNat).valid then ct
  else Cells.write noCode ct sym.toNat (codeEntry path)

/-- Walk(n, path) (R210 to R212): at a leaf its symbol's code is the path; at an internal node the left subtree is walked
with 0 appended, then the right with 1. `depth` is how many levels may still be visited: a path has at most CODE_MAX = 255
bits (10_state.md R63), and an arena that is a tree (10_state.md R50) is never deeper (R215; log entry 8). -/
def walk (node : Cells Node) : (depth : Nat) → (n : NodeIndex) → (path : List Bool) → Cells CtEntry → Cells CtEntry
  | 0, _, _, ct => ct
  | depth + 1, n, path, ct =>
    let r := Cells.read blankNode node n.toNat
    if r.leaf then recordCode r.sym path ct
    else walk node depth r.right (path ++ [true]) (walk node depth r.left (path ++ [false]) ct)

/-- The code table of the tree in `node` under `root`: every entry first invalidated (R210, R214). -/
def codesOf (node : Cells Node) (root : NodeIndex) : Cells CtEntry := walk node (maxCodeLength + 1) root [] []

/-- GENC (R210). -/
def genc (_ : Config) (b : Block) : Result :=
  if gencReady b then .ok { b with ct := codesOf b.node b.root, ctValid := true }
  else raise .sequence 0x12 b

/-- GENC (R210). -/
def execGenc (s : State) : Host.Outcome State Fault Refusal := .next (s.gated genc)

end Sys2Proof.Machine
end

