-- ==== Sys2Proof/Machine/Pack.lean ====
section
/-! DEFINITION. The Bit Packer command PACK (45_pack.md): code lookup, bitstream writer, container. -/

namespace Sys2Proof.Machine

/-- B, the concatenation of the input bytes' codes in input order (R222). -/
def dataBits (b : Block) : List Bool := b.input.flatMap (fun x => codeBits (b.code x))

/-- L, the sum of the code lengths, in unbounded integers (R220). -/
def dataLength (b : Block) : Nat := (b.input.map (fun x => (b.code x).len.toNat)).sum

/-- pad: the least number of zero bits that makes the length a multiple of 8 (R223). -/
def padOf (len : Nat) : Nat := (8 - len % 8) % 8

/-- S = u8(pad) ++ B ++ 0^pad (R225). -/
def packedString (b : Block) : List Bool :=
  byteBits (BitVec.ofNat 8 (padOf (dataLength b))) ++ dataBits b ++ List.replicate (padOf (dataLength b)) false

/-- size, the length of the container in bytes (R220, 20_memory.md R84). -/
def containerSize (b : Block) : Nat := 2 + 5 * b.ftCount.toNat + 1 + (dataLength b + padOf (dataLength b)) / 8

/-- Write the records from index `k` on at offsets 2+5k to 6+5k: the symbol, then the count in four bytes (R224). -/
def writeRecords (m : Memory) (k : Nat) : List FtRecord → Memory
  | [] => m
  | r :: rs => writeRecords (memWrite (Memory.write m (2 + 5 * k) r.sym) (3 + 5 * k) 4 r.cnt.toNat) (k + 1) rs

/-- OBUF after PACK: the header (R224), then the packed bytes from offset 2+5N (R226). -/
def containerMemory (b : Block) : Memory :=
  Cells.writeList unwrittenByte (writeRecords (memWrite [] 0 2 b.ftCount.toNat) 0 b.records)
    (2 + 5 * b.ftCount.toNat) (packBits (packedString b))

/-- The offset of the first input byte that has no code (R228). -/
def firstWithoutCode (b : Block) : Option Nat := b.input.findIdx? (fun x => !(b.code x).valid)

/-- The output state of a successful PACK of `b`, the output already emptied (R220). -/
def storeContainer (b : Block) : Block :=
  { b with obuf := containerMemory b, outLen := BitVec.ofNat 32 (containerSize b),
           pad := BitVec.ofNat 3 (padOf (dataLength b)), dbits := BitVec.ofNat 40 (dataLength b), outValid := true }

/-- PACK after its precondition, the output already emptied: the checks of R228 in order, then the container. -/
def packChecked (c : Config) (b : Block) : Result :=
  if b.ftTotal.toNat ≠ b.inLen.toNat then raise .ftMismatch b.inLen.toNat b
  else match firstWithoutCode b with
    | some i => raise .noCode i b
    | none =>
      if containerSize b > c.outCap.toNat then raise .outOverflow (containerSize b) b
      else .ok (storeContainer b)

/-- PACK (R220). -/
def pack (c : Config) (b : Block) : Result :=
  if packReady b then packChecked c (invalidateOutput b) else raise .sequence 0x13 b

/-- PACK (R220). -/
def execPack (s : State) : Host.Outcome State Fault Refusal := .next (s.gated pack)

end Sys2Proof.Machine
end

