-- ==== Sys2Proof/Machine/Unpack.lean ====
section
/-! DEFINITION. The Bit Unpacker commands PARSE and DECODE (46_unpack.md): container parser, tree-walking decoder. -/

namespace Sys2Proof.Machine

/-! ## PARSE -/

/-- N, the two-byte big-endian symbol count at offset 0 (R240). -/
def headerCount (b : Block) : Nat := memRead b.ibuf 0 2

/-- The offset of the padding-count byte of a container of `n` records (20_memory.md R84). -/
def headerEnd (n : Nat) : Nat := 2 + 5 * n

/-- Record k of the container: the symbol at 2+5k, the count in the four bytes from 3+5k (R240). -/
def headerRecord (b : Block) (k : Nat) : FtRecord :=
  { sym := Memory.read b.ibuf (2 + 5 * k), cnt := BitVec.ofNat 32 (memRead b.ibuf (3 + 5 * k) 4) }

/-- The records of the container, in its order (R241). -/
def headerRecords (b : Block) : List FtRecord := (List.range (headerCount b)).map (headerRecord b)

/-- The old table, tree and header are dropped in every case (R240). -/
def dropTable (b : Block) : Block :=
  { invalidateHeader (invalidateTree b) with ftCount := 0, ft := [] }

/-- FT, FT_COUNT, HDR_END and HDR_VALID after a successful PARSE (R240). -/
def storeHeader (recs : List FtRecord) (b : Block) : Block :=
  { b with ft := Cells.ofList blankRecord recs, ftCount := BitVec.ofNat 9 recs.length,
           hdrEnd := BitVec.ofNat 32 (headerEnd recs.length), hdrValid := true }

/-- PARSE with the old table dropped: the checks of R242 in order, then the table. -/
def parseDropped (b : Block) : Result :=
  if b.inLen.toNat < 2 then raise .hdrShort b.inLen.toNat b
  else if headerCount b > maxRecords then raise .hdrCount (headerCount b) b
  else if b.inLen.toNat < headerEnd (headerCount b) then raise .hdrShort b.inLen.toNat b
  else match ftCheck (headerRecords b) with
    | some (f, k) => raise f k b
    | none => .ok (storeHeader (headerRecords b) b)

/-- PARSE (R240). -/
def parse (_ : Config) (b : Block) : Result := parseDropped (dropTable b)

/-- PARSE (R240). -/
def execParse (s : State) : Host.Outcome State Fault Refusal := .next (s.gated parse)

/-! ## DECODE -/

/-- The byte at offset HDR_END, the padding count (R247). -/
def padByte (b : Block) : Nat := (Memory.read b.ibuf b.hdrEnd.toNat).toNat

/-- nbits, the number of bits after the padding-count byte, in unbounded integers (R246). -/
def bitsAfterPad (b : Block) : Nat := 8 * (b.inLen.toNat - b.hdrEnd.toNat - 1)

/-- D, the number of data bits left when the padding is stripped (R247). -/
def dataBitCount (b : Block) : Nat := bitsAfterPad b - padByte b

/-- The data bits: the first D of the bits after the padding-count byte (R246, R247). -/
def streamBits (b : Block) : List Bool :=
  (expandBits (Cells.slice unwrittenByte b.ibuf (b.hdrEnd.toNat + 1) (b.inLen.toNat - b.hdrEnd.toNat - 1))).take
    (dataBitCount b)

/-- How the walk over the data bits ends (R250, R255). -/
inductive WalkEnd where
  /-- The bits are used up: the current node, the index of the first bit since the last symbol, the symbols emitted. -/
  | finished (n : NodeIndex) (start : Nat) (out : List Byte)
  /-- A symbol did not fit in OBUF; the number emitted before it. -/
  | full (out : Nat)
deriving DecidableEq, Repr

/-- One bit down the tree (R250). -/
def child (node : Cells Node) (n : NodeIndex) (bit : Bool) : NodeIndex :=
  if bit then (Cells.read blankNode node n.toNat).right else (Cells.read blankNode node n.toNat).left

/-- The walk from node `n` over the bits from index `j` on (R245, R250): a leaf emits its symbol and returns to the root. -/
def walkBits (node : Cells Node) (root : NodeIndex) (cap : Nat) :
    List Bool → (j : Nat) → (n : NodeIndex) → (start : Nat) → (out : List Byte) → WalkEnd
  | [], _, n, start, out => .finished n start out
  | bit :: bits, j, n, start, out =>
    let r := Cells.read blankNode node (child node n bit).toNat
    if r.leaf then
      if out.length = cap then .full out.length
      else walkBits node root cap bits (j + 1) root (j + 1) (out ++ [r.sym])
    else walkBits node root cap bits (j + 1) (child node n bit) start out

/-- The output state of a successful DECODE (R245). -/
def storeOutput (out : List Byte) (b : Block) : Block :=
  { b with obuf := Cells.ofList unwrittenByte out, outLen := BitVec.ofNat 32 out.length,
           pad := BitVec.ofNat 3 (padByte b), dbits := BitVec.ofNat 40 (dataBitCount b), outValid := true }

/-- The last check: the symbols emitted against FT_TOTAL (R252). -/
def finishDecode (out : List Byte) (b : Block) : Result :=
  if out.length ≠ b.ftTotal.toNat then raise .lenMismatch out.length b else .ok (storeOutput out b)

/-- The data bits of a container with an empty table (R254) or with a tree (R250, R253, R255). -/
def decodeStream (c : Config) (b : Block) : Result :=
  if b.ftCount = 0 then
    if dataBitCount b > 0 then raise .truncated 0 b else finishDecode [] b
  else match walkBits b.node b.root c.outCap.toNat (streamBits b) 0 b.root 0 [] with
    | .full out => raise .outOverflow out b
    | .finished n start out => if n ≠ b.root then raise .truncated start b else finishDecode out b

/-- DECODE after its precondition, the output already emptied: the checks on the padding count (R249), then the bits. -/
def decodeChecked (c : Config) (b : Block) : Result :=
  if b.inLen.toNat < b.hdrEnd.toNat + 1 then raise .padMissing b.inLen.toNat b
  else if padByte b > 7 then raise .padRange (padByte b) b
  else if padByte b > bitsAfterPad b then raise .padExceeds (padByte b) b
  else decodeStream c b

/-- DECODE (R245). -/
def decodeContainer (c : Config) (b : Block) : Result :=
  if decodeReady b then decodeChecked c (invalidateOutput b) else raise .sequence 0x15 b

/-- DECODE (R245). -/
def execDecode (s : State) : Host.Outcome State Fault Refusal := .next (s.gated decodeContainer)

end Sys2Proof.Machine
end

