-- ==== Sys2Proof/Machine/Pipeline.lean ====
section
/-! DEFINITION. The pipeline commands COMPRESS and DECOMPRESS (47_macro.md): chains of the single commands. -/

namespace Sys2Proof.Machine

/-- BUILD then GENC, skipped when the table is empty (R260). -/
def treeAndCodes (c : Config) (b : Block) : Result :=
  if b.ftCount = 0 then .ok b else (build c b).andThen (genc c)

/-- COMPRESS (R260): FREQ; BUILD and GENC unless the table is empty; PACK. -/
def compress (c : Config) (b : Block) : Result :=
  ((freq c b).andThen (treeAndCodes c)).andThen (pack c)

/-- BUILD, skipped when the table is empty (R261). -/
def treeOnly (c : Config) (b : Block) : Result :=
  if b.ftCount = 0 then .ok b else build c b

/-- DECOMPRESS (R261): PARSE; BUILD unless the table is empty; DECODE. -/
def decompress (c : Config) (b : Block) : Result :=
  ((parse c b).andThen (treeOnly c)).andThen (decodeContainer c)

/-- COMPRESS (R260). -/
def execCompress (s : State) : Host.Outcome State Fault Refusal := .next (s.gated compress)

/-- DECOMPRESS (R261). -/
def execDecompress (s : State) : Host.Outcome State Fault Refusal := .next (s.gated decompress)

end Sys2Proof.Machine
end

