-- ==== Sys2Proof/Machine/Dispatch.lean ====
section
/-! DEFINITION. The dispatch: one arm per constructor of Instr (30_encoding.md R119). -/

namespace Sys2Proof.Machine

def exec (i : Instr) (s : State) : Host.Outcome State Fault Refusal :=
  match i with
  | .nop => Sys2Proof.Machine.execNop s
  | .srst => Sys2Proof.Machine.execSrst s
  | .iclr => Sys2Proof.Machine.execIclr s
  | .fclr => Sys2Proof.Machine.execFclr s
  | .freq => Sys2Proof.Machine.execFreq s
  | .build => Sys2Proof.Machine.execBuild s
  | .genc => Sys2Proof.Machine.execGenc s
  | .pack => Sys2Proof.Machine.execPack s
  | .parse => Sys2Proof.Machine.execParse s
  | .decode => Sys2Proof.Machine.execDecode s
  | .compress => Sys2Proof.Machine.execCompress s
  | .decompress => Sys2Proof.Machine.execDecompress s
  | .cmdIllegal word => Sys2Proof.Machine.execCmdIllegal word s
  | .wrInPush b => Sys2Proof.Machine.execWrInPush b s
  | .wrInSel index => Sys2Proof.Machine.execWrInSel index s
  | .wrFtSym sym => Sys2Proof.Machine.execWrFtSym sym s
  | .wrFtPush count => Sys2Proof.Machine.execWrFtPush count s
  | .wrFtSel index => Sys2Proof.Machine.execWrFtSel index s
  | .wrNodeSel index => Sys2Proof.Machine.execWrNodeSel index s
  | .wrCtSel sym => Sys2Proof.Machine.execWrCtSel sym s
  | .wrOutSel index => Sys2Proof.Machine.execWrOutSel index s
  | .rdStatus => Sys2Proof.Machine.execRdStatus s
  | .rdErr => Sys2Proof.Machine.execRdErr s
  | .rdErrInfo => Sys2Proof.Machine.execRdErrInfo s
  | .rdId => Sys2Proof.Machine.execRdId s
  | .rdCapIn => Sys2Proof.Machine.execRdCapIn s
  | .rdCapOut => Sys2Proof.Machine.execRdCapOut s
  | .rdInLen => Sys2Proof.Machine.execRdInLen s
  | .rdInSel => Sys2Proof.Machine.execRdInSel s
  | .rdInData => Sys2Proof.Machine.execRdInData s
  | .rdFtSym => Sys2Proof.Machine.execRdFtSym s
  | .rdFtCount => Sys2Proof.Machine.execRdFtCount s
  | .rdFtSel => Sys2Proof.Machine.execRdFtSel s
  | .rdFtRsym => Sys2Proof.Machine.execRdFtRsym s
  | .rdFtRcnt => Sys2Proof.Machine.execRdFtRcnt s
  | .rdFtTotalLo => Sys2Proof.Machine.execRdFtTotalLo s
  | .rdFtTotalHi => Sys2Proof.Machine.execRdFtTotalHi s
  | .rdNodeSel => Sys2Proof.Machine.execRdNodeSel s
  | .rdNodeInfo => Sys2Proof.Machine.execRdNodeInfo s
  | .rdNodeFreqLo => Sys2Proof.Machine.execRdNodeFreqLo s
  | .rdNodeFreqHi => Sys2Proof.Machine.execRdNodeFreqHi s
  | .rdNodeCount => Sys2Proof.Machine.execRdNodeCount s
  | .rdRoot => Sys2Proof.Machine.execRdRoot s
  | .rdCtSel => Sys2Proof.Machine.execRdCtSel s
  | .rdCtLen => Sys2Proof.Machine.execRdCtLen s
  | .rdCtBits0 => Sys2Proof.Machine.execRdCtBits0 s
  | .rdCtBits1 => Sys2Proof.Machine.execRdCtBits1 s
  | .rdCtBits2 => Sys2Proof.Machine.execRdCtBits2 s
  | .rdCtBits3 => Sys2Proof.Machine.execRdCtBits3 s
  | .rdCtBits4 => Sys2Proof.Machine.execRdCtBits4 s
  | .rdCtBits5 => Sys2Proof.Machine.execRdCtBits5 s
  | .rdCtBits6 => Sys2Proof.Machine.execRdCtBits6 s
  | .rdCtBits7 => Sys2Proof.Machine.execRdCtBits7 s
  | .rdOutLen => Sys2Proof.Machine.execRdOutLen s
  | .rdOutSel => Sys2Proof.Machine.execRdOutSel s
  | .rdOutData => Sys2Proof.Machine.execRdOutData s
  | .rdHdrEnd => Sys2Proof.Machine.execRdHdrEnd s
  | .rdPad => Sys2Proof.Machine.execRdPad s
  | .rdDbitsLo => Sys2Proof.Machine.execRdDbitsLo s
  | .rdDbitsHi => Sys2Proof.Machine.execRdDbitsHi s
  | .wrIgnored addr wdata => Sys2Proof.Machine.execWrIgnored addr wdata s
  | .rdZero addr => Sys2Proof.Machine.execRdZero addr s

end Sys2Proof.Machine
end

