-- ==== Sys2Proof/Machine/Step.lean ====
section
/-! DEFINITION. One step: the block executes the next event the host presents (20_memory.md R95, 30_encoding.md R119). -/

namespace Sys2Proof.Machine

/-- One step of the machine. With nothing presented the block does nothing (70_reset_and_hazards.md R352); a hard reset
resets the block (R350); a transaction is decoded and executed whole (20_memory.md R95, R96). -/
def step (s : State) : Host.Outcome State Fault Refusal :=
  match nextEvent s with
  | none => .next s
  | some (.hardReset, s') => .next (hardReset s')
  | some (.transaction t, s') => exec (decode t) s'

/-- The host presents the transaction whose bits are the low `nbits` of `w` (log entries 2, 11), so that the next step
executes it. -/
def State.withFetchWord (s : State) (nbits w : Nat) : State :=
  present (.transaction (BitVec.ofNat 41 (w % 2 ^ nbits))) s

end Sys2Proof.Machine
end

