-- ==== Sys2Proof/Safety.lean ====
section
/-! DEFINITION. What counts as a good state, in the terms the statements use: the well-formed table (10_state.md R46), the
arena (R50), the global invariants (R70), what each valid flag means (R34), and the canonical storage of the model. -/

namespace Sys2Proof.Machine

/-- A table is well formed: no record has count 0 and no two records have the same symbol (10_state.md R46). -/
abbrev tableWf (recs : List FtRecord) : Prop := (∀ r ∈ recs, r.cnt ≠ 0) ∧ (recs.map FtRecord.sym).Nodup

/-- NODE[i] for a number i. -/
def Block.nodeNum (b : Block) (i : Nat) : Node := Cells.read blankNode b.node i

/-- The internal nodes, among the indices N to 2N-2, of which `j` is a child. -/
def Block.parentsOf (b : Block) (j : Nat) : List Nat :=
  (List.range (2 * b.ftCount.toNat - 1)).filter (fun i =>
    decide (b.ftCount.toNat ≤ i) && (decide ((b.nodeNum i).left.toNat = j) || decide ((b.nodeNum i).right.toNat = j)))

/-- 10_state.md R50(a), with R49's zeros in the members that have no meaning for a leaf. -/
abbrev leavesInv (b : Block) : Prop :=
  ∀ k < b.ftCount.toNat, (b.nodeNum k).leaf = true ∧ (b.nodeNum k).sym = (b.record k).sym
    ∧ (b.nodeNum k).freq = (b.record k).cnt.setWidth 40 ∧ (b.nodeNum k).left = 0 ∧ (b.nodeNum k).right = 0

/-- The members of an internal node at index i (10_state.md R49, R50(b)). -/
abbrev internalInv (b : Block) (i : Nat) : Prop :=
  (b.nodeNum i).leaf = false ∧ (b.nodeNum i).sym = 0 ∧ (b.nodeNum i).left.toNat < i ∧ (b.nodeNum i).right.toNat < i
    ∧ (b.nodeNum i).left ≠ (b.nodeNum i).right
    ∧ (b.nodeNum i).freq = (b.nodeAt (b.nodeNum i).left).freq + (b.nodeAt (b.nodeNum i).right).freq

/-- 10_state.md R50(b): two records or more. -/
abbrev mergedInv (b : Block) : Prop :=
  b.nodeCount.toNat = 2 * b.ftCount.toNat - 1 ∧ b.root.toNat = 2 * b.ftCount.toNat - 2
    ∧ (∀ i < 2 * b.ftCount.toNat - 1, b.ftCount.toNat ≤ i → internalInv b i)
    ∧ (∀ j < 2 * b.ftCount.toNat - 2, (b.parentsOf j).length = 1)

/-- 10_state.md R50(c): one record. -/
abbrev singleInv (b : Block) : Prop :=
  b.nodeCount = 2 ∧ b.root = 1 ∧ (b.nodeNum 1).leaf = false ∧ (b.nodeNum 1).sym = 0 ∧ (b.nodeNum 1).left = 0
    ∧ (b.nodeNum 1).right = 0 ∧ (b.nodeNum 1).freq = (b.nodeNum 0).freq

/-- 10_state.md R50, all of it, for a block whose tree is valid. -/
abbrev arenaInv (b : Block) : Prop :=
  1 ≤ b.ftCount.toNat ∧ leavesInv b ∧ (2 ≤ b.ftCount.toNat → mergedInv b) ∧ (b.ftCount.toNat = 1 → singleInv b)
    ∧ (b.nodeAt b.root).freq = b.ftTotal ∧ (b.nodeAt b.root).leaf = false

/-- The table, HDR_END and the container's header agree (10_state.md R70(c)). -/
abbrev headerInv (b : Block) : Prop :=
  b.hdrEnd.toNat = 2 + 5 * b.ftCount.toNat ∧ b.hdrEnd.toNat ≤ b.inLen.toNat ∧ tableWf b.records
    ∧ ∀ k < b.ftCount.toNat, b.record k = headerRecord b k

/-- The global invariants of 10_state.md R70, (a) to (f). -/
abbrev globalInv (c : Config) (b : Block) : Prop :=
  (b.ctValid = true → b.treeValid = true)
    ∧ (b.treeValid = true → tableWf b.records ∧ arenaInv b)
    ∧ (b.hdrValid = true → headerInv b)
    ∧ (b.err = true ↔ b.errCode ≠ 0)
    ∧ (b.outValid = false → b.outLen = 0 ∧ b.pad = 0 ∧ b.dbits = 0)
    ∧ (b.hdrValid = false → b.hdrEnd = 0)
    ∧ (b.treeValid = false → b.nodeCount = 0 ∧ b.root = 0)
    ∧ b.inLen ≤ c.inCap ∧ b.outLen ≤ c.outCap ∧ b.ftCount.toNat ≤ 256

/-- The model's storage is canonical: every memory in its one form, and nothing listed that is no state (10_state.md R43,
R45, R49, R52, R54; log entries 4, 5). Equal machines are equal data. -/
abbrev storageInv (b : Block) : Prop :=
  (Memory.wf b.ibuf = true ∧ Cells.below b.inLen.toNat b.ibuf = true)
    ∧ (Cells.wf blankRecord b.ft = true ∧ Cells.below b.ftCount.toNat b.ft = true)
    ∧ (Cells.wf blankNode b.node = true ∧ Cells.below b.nodeCount.toNat b.node = true)
    ∧ (Cells.wf noCode b.ct = true ∧ Cells.below 256 b.ct = true ∧ (b.ctValid = false → b.ct = []))
    ∧ (Memory.wf b.obuf = true ∧ Cells.below b.outLen.toNat b.obuf = true)

/-- The invariant of the machine: admissible capacities, 10_state.md R70, canonical storage. -/
abbrev State.Inv (s : State) : Prop := s.cfg.admissible ∧ globalInv s.cfg s.blk ∧ storageInv s.blk

/-- TREE_VALID: "NODE, NODE_COUNT, ROOT were produced by BUILD from the records now in FT" (10_state.md R34). -/
abbrev treeFaithful (b : Block) : Prop :=
  b.ftCount ≠ 0 ∧ ftCheck b.records = none
    ∧ b.node = Cells.ofList blankNode (buildTree b.records).1
    ∧ b.nodeCount = BitVec.ofNat 9 (buildTree b.records).1.length
    ∧ b.root = BitVec.ofNat 9 (buildTree b.records).2

/-- HDR_VALID: "FT and HDR_END were produced by PARSE from the bytes now in IBUF" (10_state.md R34). -/
abbrev headerFaithful (b : Block) : Prop :=
  2 ≤ b.inLen.toNat ∧ headerCount b ≤ 256 ∧ headerEnd (headerCount b) ≤ b.inLen.toNat
    ∧ ftCheck (headerRecords b) = none ∧ b.records = headerRecords b
    ∧ b.hdrEnd.toNat = headerEnd (headerCount b)

/-- What the valid flags say of the state (10_state.md R34); CT_VALID: "CT was produced by GENC from the tree now in
NODE". -/
abbrev flagsFaithful (b : Block) : Prop :=
  (b.ctValid = true → b.treeValid = true ∧ b.ct = codesOf b.node b.root)
    ∧ (b.treeValid = true → treeFaithful b)
    ∧ (b.hdrValid = true → headerFaithful b)

/-- Execute instructions one after another, stopping at the first fault or refusal of the model: a host program
(00_scope.md R17, 20_memory.md R95). -/
def runInstrs : List Instr → State → Host.Outcome State Fault Refusal
  | [], s => .next s
  | i :: is, s =>
    match exec i s with
    | .next t => runInstrs is t
    | .fault f => .fault f
    | .refused r => .refused r

/-- Node j is before node k in the order of extraction: by frequency, then by index (43_build.md R193). -/
abbrev Block.keyLess (b : Block) (j k : Nat) : Prop :=
  (b.nodeNum j).freq.toNat < (b.nodeNum k).freq.toNat
    ∨ ((b.nodeNum j).freq.toNat = (b.nodeNum k).freq.toNat ∧ j < k)

/-- Node j waits in PQ when node i is made: it lies below i and is the child of no internal node below i (43_build.md
R191, R192). -/
abbrev Block.waitsAt (b : Block) (i j : Nat) : Prop :=
  j < i ∧ ∀ k < i, b.ftCount.toNat ≤ k → (b.nodeNum k).left.toNat ≠ j ∧ (b.nodeNum k).right.toNat ≠ j

/-- A read yields `v` to the host and changes nothing else: no state of the block (20_memory.md R87). -/
abbrev readsAs (i : Instr) (s : State) (v : Word) : Prop :=
  exec i s = .next { s with bus := { s.bus with lastRead := some v } }

/-- `b` with a fault recorded (60_exceptions.md R310(2)). -/
def withFault (b : Block) (code : BitVec 8) (info : Nat) : Block :=
  { b with err := true, errCode := code, errInfo := BitVec.ofNat 32 info }

/-- Record k has count 0 (10_state.md R46). -/
abbrev zeroAt (recs : List FtRecord) (k : Nat) : Prop := ∃ r, recs[k]? = some r ∧ r.cnt = 0

/-- Record k repeats the symbol of a lower record (10_state.md R46). -/
abbrev repeatAt (recs : List FtRecord) (k : Nat) : Prop :=
  ∃ r, recs[k]? = some r ∧ r.sym ∈ (recs.take k).map FtRecord.sym

/-- No record below k has count 0 or repeats a symbol. -/
abbrev cleanBelow (recs : List FtRecord) (k : Nat) : Prop := ∀ j < k, ¬zeroAt recs j ∧ ¬repeatAt recs j

/-- The five bytes of a record in a container: the symbol, the count most significant byte first (20_memory.md R84). -/
def recordBytes (r : FtRecord) : List Byte :=
  [r.sym, BitVec.ofNat 8 (r.cnt.toNat / 2 ^ 24), BitVec.ofNat 8 (r.cnt.toNat / 2 ^ 16),
   BitVec.ofNat 8 (r.cnt.toNat / 2 ^ 8), BitVec.ofNat 8 r.cnt.toNat]

/-- The header of a container: the two-byte count of records, then the records (20_memory.md R84). -/
def headerBytes (recs : List FtRecord) : List Byte :=
  [BitVec.ofNat 8 (recs.length / 2 ^ 8), BitVec.ofNat 8 recs.length] ++ recs.flatMap recordBytes

/-- The symbol of the first leaf met when the bits are followed down from node `n` (0 left, 1 right), if that leaf is met
exactly at the last bit (44_genc.md R211, R214). -/
def leadsTo (node : Cells Node) : NodeIndex → List Bool → Option Byte
  | _, [] => none
  | n, bit :: rest =>
    let r := Cells.read blankNode node n.toNat
    let m := if bit then r.right else r.left
    if (Cells.read blankNode node m.toNat).leaf then
      (if rest = [] then some (Cells.read blankNode node m.toNat).sym else none)
    else leadsTo node m rest

/-- No leaf is met when the bits are followed down from node `n`. -/
def meetsNoLeaf (node : Cells Node) : NodeIndex → List Bool → Bool
  | _, [] => true
  | n, bit :: rest =>
    let r := Cells.read blankNode node n.toNat
    let m := if bit then r.right else r.left
    !(Cells.read blankNode node m.toNat).leaf && meetsNoLeaf node m rest

/-- The bit strings, each with the symbol its bits lead to from the root: `ws` spells the symbols `ws.map Prod.snd`. -/
abbrev spells (b : Block) (ws : List (List Bool × Byte)) : Prop :=
  ∀ w ∈ ws, leadsTo b.node b.root w.1 = some w.2

/-- DECODE may start and its padding count is in order: the checks of 46_unpack.md R245 before the walk. -/
abbrev decodeStarts (b : Block) : Prop :=
  b.hdrValid = true ∧ (b.ftCount = 0 ∨ b.treeValid = true) ∧ b.hdrEnd.toNat + 1 ≤ b.inLen.toNat
    ∧ (Memory.read b.ibuf b.hdrEnd.toNat).toNat ≤ 7
    ∧ (Memory.read b.ibuf b.hdrEnd.toNat).toNat ≤ 8 * (b.inLen.toNat - b.hdrEnd.toNat - 1)

end Sys2Proof.Machine

namespace Sys2Proof

/-- The data-changing writes: every write to CMD but SRST, every write to IN_PUSH and FT_PUSH (40_host_access.md R140). -/
def Instr.isGated : Instr → Bool
  | .nop => true
  | .srst => false
  | .iclr => true
  | .fclr => true
  | .freq => true
  | .build => true
  | .genc => true
  | .pack => true
  | .parse => true
  | .decode => true
  | .compress => true
  | .decompress => true
  | .cmdIllegal _ => true
  | .wrInPush _ => true
  | .wrInSel _ => false
  | .wrFtSym _ => false
  | .wrFtPush _ => true
  | .wrFtSel _ => false
  | .wrNodeSel _ => false
  | .wrCtSel _ => false
  | .wrOutSel _ => false
  | .rdStatus => false
  | .rdErr => false
  | .rdErrInfo => false
  | .rdId => false
  | .rdCapIn => false
  | .rdCapOut => false
  | .rdInLen => false
  | .rdInSel => false
  | .rdInData => false
  | .rdFtSym => false
  | .rdFtCount => false
  | .rdFtSel => false
  | .rdFtRsym => false
  | .rdFtRcnt => false
  | .rdFtTotalLo => false
  | .rdFtTotalHi => false
  | .rdNodeSel => false
  | .rdNodeInfo => false
  | .rdNodeFreqLo => false
  | .rdNodeFreqHi => false
  | .rdNodeCount => false
  | .rdRoot => false
  | .rdCtSel => false
  | .rdCtLen => false
  | .rdCtBits0 => false
  | .rdCtBits1 => false
  | .rdCtBits2 => false
  | .rdCtBits3 => false
  | .rdCtBits4 => false
  | .rdCtBits5 => false
  | .rdCtBits6 => false
  | .rdCtBits7 => false
  | .rdOutLen => false
  | .rdOutSel => false
  | .rdOutData => false
  | .rdHdrEnd => false
  | .rdPad => false
  | .rdDbitsLo => false
  | .rdDbitsHi => false
  | .wrIgnored _ _ => false
  | .rdZero _ => false

/-- A read: a transaction word with W = 0 (30_encoding.md R110). -/
def Instr.isRead (i : Instr) : Bool := !isWrite (encode i)

/-- The faults a transaction may raise (60_exceptions.md R301, R308; 47_macro.md R262 for the two pipeline commands). -/
def Instr.mayRaise : Instr → List Machine.FaultKind
  | .nop => []
  | .srst => []
  | .iclr => []
  | .fclr => []
  | .freq => []
  | .build => [.emptyTable, .ftZero, .ftDup]
  | .genc => [.sequence]
  | .pack => [.sequence, .ftMismatch, .noCode, .outOverflow]
  | .parse => [.hdrShort, .hdrCount, .ftZero, .ftDup]
  | .decode => [.sequence, .padMissing, .padRange, .padExceeds, .outOverflow, .truncated, .lenMismatch]
  | .compress => [.outOverflow]
  | .decompress => [.hdrShort, .hdrCount, .ftZero, .ftDup, .padMissing, .padRange, .padExceeds, .outOverflow, .truncated, .lenMismatch]
  | .cmdIllegal _ => [.illegalCmd]
  | .wrInPush _ => [.inOverflow]
  | .wrInSel _ => []
  | .wrFtSym _ => []
  | .wrFtPush _ => [.ftOverflow]
  | .wrFtSel _ => []
  | .wrNodeSel _ => []
  | .wrCtSel _ => []
  | .wrOutSel _ => []
  | .rdStatus => []
  | .rdErr => []
  | .rdErrInfo => []
  | .rdId => []
  | .rdCapIn => []
  | .rdCapOut => []
  | .rdInLen => []
  | .rdInSel => []
  | .rdInData => []
  | .rdFtSym => []
  | .rdFtCount => []
  | .rdFtSel => []
  | .rdFtRsym => []
  | .rdFtRcnt => []
  | .rdFtTotalLo => []
  | .rdFtTotalHi => []
  | .rdNodeSel => []
  | .rdNodeInfo => []
  | .rdNodeFreqLo => []
  | .rdNodeFreqHi => []
  | .rdNodeCount => []
  | .rdRoot => []
  | .rdCtSel => []
  | .rdCtLen => []
  | .rdCtBits0 => []
  | .rdCtBits1 => []
  | .rdCtBits2 => []
  | .rdCtBits3 => []
  | .rdCtBits4 => []
  | .rdCtBits5 => []
  | .rdCtBits6 => []
  | .rdCtBits7 => []
  | .rdOutLen => []
  | .rdOutSel => []
  | .rdOutData => []
  | .rdHdrEnd => []
  | .rdPad => []
  | .rdDbitsLo => []
  | .rdDbitsHi => []
  | .wrIgnored _ _ => []
  | .rdZero _ => []

end Sys2Proof
end

