-- ==== Sys2Proof/Certificates/Slice0/Obligations.lean ====
section
/-! DEFINITION. The statements about the machine, from the spec's numbered rules. Each docstring names the rule. -/

open Sys2Proof Sys2Proof.Machine

/-! ## Encoding -/

/-- 30_encoding.md R110, R118: encoding a well-formed instruction and decoding the word gives the instruction back, for
every value of its operands. -/
def Obligations.DecodeOfEncodeIsIdentity : Prop :=
  ∀ i : Instr, i.wf = true → decode (encode i) = i

/-- 30_encoding.md R118: decoding is total, and every word's meaning is a well-formed instruction; the kind of every word
is the first of the ordered rows that takes it; twelve rows examine every bit, the register rows W and ADDR, the last two W
alone; and apart from the three catch-all rows no two rows take the same word. -/
def Obligations.FirstMatchingRowIsTheKind : Prop :=
  (∀ t : Transaction, firstRowKind t = some (decode t).mnemonic ∧ (decode t).wf = true)
  ∧ opcodeTable.map OpcodeRow.mask
      = List.replicate 12 0x1FFFFFFFFFF ++ List.replicate 48 0x1FF00000000 ++ List.replicate 2 0x10000000000
  ∧ ∀ r ∈ opcodeTable, ∀ q ∈ opcodeTable,
      r.mnemonic ∉ ["CMD.ILLEGAL", "WR.IGNORED", "RD.ZERO"] → q.mnemonic ∉ ["CMD.ILLEGAL", "WR.IGNORED", "RD.ZERO"] →
      ∀ t : Transaction, r.takes t = true → q.takes t = true → r = q

/-- 30_encoding.md R113, R110: the bits each write uses, and that the bits it ignores have no effect; every bit of a
command word is examined; WDATA is ignored when W = 0. -/
def Obligations.TransactionsUseTheirBits : Prop :=
  (∀ d : Word,
    decode (writeWord 0x08 d) = .wrInPush (BitVec.ofNat 8 (d.toNat % 2 ^ 8))
    ∧ decode (writeWord 0x0A d) = .wrInSel d
    ∧ decode (writeWord 0x10 d) = .wrFtSym (BitVec.ofNat 8 (d.toNat % 2 ^ 8))
    ∧ decode (writeWord 0x11 d) = .wrFtPush d
    ∧ decode (writeWord 0x13 d) = .wrFtSel (BitVec.ofNat 8 (d.toNat % 2 ^ 8))
    ∧ decode (writeWord 0x18 d) = .wrNodeSel (BitVec.ofNat 9 (d.toNat % 2 ^ 9))
    ∧ decode (writeWord 0x20 d) = .wrCtSel (BitVec.ofNat 8 (d.toNat % 2 ^ 8))
    ∧ decode (writeWord 0x31 d) = .wrOutSel d)
  ∧ (∀ d e : Word, decode (writeWord 0x00 d) = decode (writeWord 0x00 e) → d = e)
  ∧ ∀ (a : RegAddr) (d e : Word), decode (0#1 ++ a ++ d) = decode (0#1 ++ a ++ e)

/-- Words of 30_encoding.md R115, R130 and 95_test_vectors.md, bit by bit, and the instructions they stand for. -/
def Obligations.SampleWordsDecode : Prop :=
  decode 0x10000000011 = .build ∧ decode 0x10800000061 = .wrInPush 0x61 ∧ decode 0x00100000000 = .rdStatus
  ∧ decode 0x10000000099 = .cmdIllegal 0x99 ∧ decode 0x118000003FF = .wrNodeSel 0x1FF
  ∧ decode 0x10900000005 = .wrIgnored 0x09 5 ∧ decode 0x00700000000 = .rdZero 0x07
  ∧ decode 0x10000000021 = .decompress ∧ decode 0x03600000000 = .rdDbitsHi

/-! ## The step -/

/-- 30_encoding.md R119, 20_memory.md R95, 70_reset_and_hazards.md R350, R352: when a transaction is the oldest event
pending, the step is exec of the decoded instruction on the machine with that event taken off; a hard reset puts the block
in the reset state; with nothing presented the block does nothing. How the host's events are held, and the idle step, are
the model's choice (log entry 2). -/
def Obligations.StepTakesTheOldestEvent : Prop :=
  (∀ (s : State) (t : Transaction) (rest : List BusEvent), s.bus.pending = .transaction t :: rest →
    step s = exec (decode t) { s with bus := { s.bus with pending := rest } })
  ∧ (∀ (s : State) (t : Transaction), step (s.withFetchWord 48 t.toNat) = exec (decode t) s)
  ∧ (∀ (s : State) (rest : List BusEvent), s.bus.pending = .hardReset :: rest →
    step s = .next { cfg := s.cfg, blk := Block.reset, bus := { s.bus with pending := rest } })
  ∧ ∀ s : State, s.bus.pending = [] → step s = .next s

/-- 00_scope.md R19, 70_reset_and_hazards.md R362: every transaction, in every state, finishes with a next state. The rest
is the model's choice: the capacities, open in 00_scope.md R11, are data that no step changes (log entry 1); the host's
transactions, in the order of 20_memory.md R95, are a list of events of which a step takes the oldest off, and with none
pending the step still answers (log entry 2). -/
def Obligations.EveryStepAnswersANextState : Prop :=
  (∀ s : State, ∃ t, step s = .next t ∧ t.cfg = s.cfg ∧ t.bus.pending = s.bus.pending.tail)
  ∧ ∀ (i : Instr) (s : State), ∃ t, exec i s = .next t ∧ t.cfg = s.cfg ∧ t.bus.pending = s.bus.pending

/-! ## Reads -/

/-- 10_state.md R34, R37, R38, 60_exceptions.md R301: STATUS reads ERR, HDR_VALID, TREE_VALID, CT_VALID, OUT_VALID in bits 0
to 4 and 0 above; for each code of R301 ERR reads the table's word, and 0 with CODE = 0; ERR_INFO reads the detail. -/
def Obligations.StatusAndErrorRead : Prop :=
  (∀ s : State, ∃ v : Word, readsAs .rdStatus s v ∧ v.getLsbD 0 = s.blk.err ∧ v.getLsbD 1 = s.blk.hdrValid
    ∧ v.getLsbD 2 = s.blk.treeValid ∧ v.getLsbD 3 = s.blk.ctValid ∧ v.getLsbD 4 = s.blk.outValid
    ∧ ∀ i, 5 ≤ i → v.getLsbD i = false)
  ∧ (∀ s : State, ∀ p ∈ ([(0x00, 0x0000), (0x01, 0x0301), (0x02, 0x0302), (0x03, 0x0303), (0x04, 0x0404), (0x05, 0x0405),
      (0x06, 0x0406), (0x10, 0x1110), (0x11, 0x1111), (0x12, 0x0112), (0x13, 0x0113), (0x20, 0x1120), (0x21, 0x1121),
      (0x22, 0x1122), (0x23, 0x1123), (0x24, 0x1124), (0x25, 0x1125), (0x30, 0x2130)] : List (BitVec 8 × Word)),
    s.blk.errCode = p.1 → readsAs .rdErr s p.2)
  ∧ (∀ s : State, ∃ v : Word, readsAs .rdErr s v ∧ v.toNat < 2 ^ 16 ∧ v.toNat % 2 ^ 8 = s.blk.errCode.toNat)
  ∧ ∀ s : State, readsAs .rdErrInfo s s.blk.errInfo

/-- 10_state.md R32, R40 to R43, R45, R49, R55 to R57: the constants, and the registers read as themselves, narrower ones
zero-extended, DBITS over two words. -/
def Obligations.PlainRegistersRead : Prop :=
  ∀ s : State, readsAs .rdId s 0x48554631 ∧ readsAs .rdCapIn s s.cfg.inCap ∧ readsAs .rdCapOut s s.cfg.outCap
    ∧ readsAs .rdInLen s s.blk.inLen ∧ readsAs .rdFtCount s (BitVec.ofNat 32 s.blk.ftCount.toNat)
    ∧ readsAs .rdNodeCount s (BitVec.ofNat 32 s.blk.nodeCount.toNat)
    ∧ readsAs .rdRoot s (BitVec.ofNat 32 s.blk.root.toNat) ∧ readsAs .rdOutLen s s.blk.outLen
    ∧ readsAs .rdHdrEnd s s.blk.hdrEnd ∧ readsAs .rdPad s (BitVec.ofNat 32 s.blk.pad.toNat)
    ∧ readsAs .rdDbitsLo s (BitVec.ofNat 32 (s.blk.dbits.toNat % 2 ^ 32))
    ∧ readsAs .rdDbitsHi s (BitVec.ofNat 32 (s.blk.dbits.toNat / 2 ^ 32))

/-- 10_state.md R44: IN_SEL stores and reads any word, is 0 at reset, and selects the byte IN_DATA, which no write
reaches, returns: 0 at and above IN_LEN. -/
def Obligations.InputWindow : Prop :=
  (∀ d : Word, decode (writeWord 0x0A d) = .wrInSel d ∧ decode (writeWord 0x0B d) = .wrIgnored 0x0B d)
  ∧ decode (readWord 0x0A) = .rdInSel ∧ decode (readWord 0x0B) = .rdInData ∧ Block.reset.inSel = 0
  ∧ ∀ s : State, (∀ x : Word, exec (.wrInSel x) s = .next { s with blk := { s.blk with inSel := x } })
    ∧ readsAs .rdInSel s s.blk.inSel
    ∧ (s.blk.inSel.toNat < s.blk.inLen.toNat →
        readsAs .rdInData s (BitVec.ofNat 32 (Memory.read s.blk.ibuf s.blk.inSel.toNat).toNat))
    ∧ (s.blk.inLen.toNat ≤ s.blk.inSel.toNat → readsAs .rdInData s 0)

/-- 10_state.md R47, R48: FT_SYM and FT_SEL read as themselves; FT_SEL selects the record FT_RSYM and FT_RCNT return, both
0 at and above FT_COUNT; FT_TOTAL is the sum of the counts, which 40 bits hold, low word and high byte. -/
def Obligations.FrequencyTableWindow : Prop :=
  ∀ s : State, readsAs .rdFtSym s (BitVec.ofNat 32 s.blk.ftSym.toNat)
    ∧ readsAs .rdFtSel s (BitVec.ofNat 32 s.blk.ftSel.toNat)
    ∧ (s.blk.ftSel.toNat < s.blk.ftCount.toNat →
        readsAs .rdFtRsym s (BitVec.ofNat 32 (s.blk.record s.blk.ftSel.toNat).sym.toNat)
        ∧ readsAs .rdFtRcnt s (s.blk.record s.blk.ftSel.toNat).cnt)
    ∧ (s.blk.ftCount.toNat ≤ s.blk.ftSel.toNat → readsAs .rdFtRsym s 0 ∧ readsAs .rdFtRcnt s 0)
    ∧ (∃ lo hi : Word, readsAs .rdFtTotalLo s lo ∧ readsAs .rdFtTotalHi s hi ∧ hi.toNat < 2 ^ 8
        ∧ (s.blk.ftCount.toNat ≤ 256 →
            2 ^ 32 * hi.toNat + lo.toNat = (s.blk.records.map (fun r => r.cnt.toNat)).sum))

/-- 10_state.md R51: NODE_SEL stores nine bits and reads them back, is 0 at reset, and selects the record whose members
NODE_INFO, NODE_FREQ_LO and NODE_FREQ_HI, which no write reaches, return: all 0 at and above NODE_COUNT. -/
def Obligations.NodeWindow : Prop :=
  decode (readWord 0x18) = .rdNodeSel ∧ decode (readWord 0x19) = .rdNodeInfo ∧ decode (readWord 0x1A) = .rdNodeFreqLo
  ∧ decode (readWord 0x1B) = .rdNodeFreqHi ∧ Block.reset.nodeSel = 0
  ∧ (∀ d : Word, decode (writeWord 0x18 d) = .wrNodeSel (BitVec.ofNat 9 (d.toNat % 2 ^ 9))
      ∧ ∀ a ∈ ([0x19, 0x1A, 0x1B] : List RegAddr), decode (writeWord a d) = .wrIgnored a d)
  ∧ ∀ s : State, (∀ x : NodeIndex, exec (.wrNodeSel x) s = .next { s with blk := { s.blk with nodeSel := x } })
    ∧ readsAs .rdNodeSel s (BitVec.ofNat 32 s.blk.nodeSel.toNat)
    ∧ (s.blk.nodeSel.toNat < s.blk.nodeCount.toNat → ∀ n : Node, n = s.blk.nodeNum s.blk.nodeSel.toNat →
        readsAs .rdNodeInfo s (BitVec.ofNat 32 (n.left.toNat + 2 ^ 9 * n.right.toNat + 2 ^ 18 * n.sym.toNat
          + 2 ^ 26 * n.leaf.toNat + 2 ^ 27))
        ∧ readsAs .rdNodeFreqLo s (BitVec.ofNat 32 (n.freq.toNat % 2 ^ 32))
        ∧ readsAs .rdNodeFreqHi s (BitVec.ofNat 32 (n.freq.toNat / 2 ^ 32)))
    ∧ (s.blk.nodeCount.toNat ≤ s.blk.nodeSel.toNat →
        readsAs .rdNodeInfo s 0 ∧ readsAs .rdNodeFreqLo s 0 ∧ readsAs .rdNodeFreqHi s 0)

/-- 10_state.md R53: CT_SEL stores eight bits and reads them back, is 0 at reset; with CT_VALID = 1 and the selected entry
valid, CT_LEN has bit 31 set and the length in bits 7:0, and CT_BITSw is word w of the code's value; else all nine read
0. -/
def Obligations.CodeWindow : Prop :=
  (∀ d : Word, decode (writeWord 0x20 d) = .wrCtSel (BitVec.ofNat 8 (d.toNat % 2 ^ 8)))
  ∧ decode (readWord 0x20) = .rdCtSel ∧ decode (readWord 0x21) = .rdCtLen
  ∧ [0x22, 0x23, 0x24, 0x25, 0x26, 0x27, 0x28, 0x29].map (fun a => decode (readWord a))
      = [.rdCtBits0, .rdCtBits1, .rdCtBits2, .rdCtBits3, .rdCtBits4, .rdCtBits5, .rdCtBits6, .rdCtBits7]
  ∧ Block.reset.ctSel = 0
  ∧ ∀ s : State, (∀ x : Byte, exec (.wrCtSel x) s = .next { s with blk := { s.blk with ctSel := x } })
    ∧ readsAs .rdCtSel s (BitVec.ofNat 32 s.blk.ctSel.toNat)
    ∧ ∀ e : CtEntry, e = s.blk.code s.blk.ctSel →
      (s.blk.ctValid = true ∧ e.valid = true →
        readsAs .rdCtLen s (BitVec.ofNat 32 (2 ^ 31 + e.len.toNat))
        ∧ readsAs .rdCtBits0 s (BitVec.ofNat 32 (e.val.toNat % 2 ^ 32))
        ∧ readsAs .rdCtBits1 s (BitVec.ofNat 32 (e.val.toNat / 2 ^ 32 % 2 ^ 32))
        ∧ readsAs .rdCtBits2 s (BitVec.ofNat 32 (e.val.toNat / 2 ^ 64 % 2 ^ 32))
        ∧ readsAs .rdCtBits3 s (BitVec.ofNat 32 (e.val.toNat / 2 ^ 96 % 2 ^ 32))
        ∧ readsAs .rdCtBits4 s (BitVec.ofNat 32 (e.val.toNat / 2 ^ 128 % 2 ^ 32))
        ∧ readsAs .rdCtBits5 s (BitVec.ofNat 32 (e.val.toNat / 2 ^ 160 % 2 ^ 32))
        ∧ readsAs .rdCtBits6 s (BitVec.ofNat 32 (e.val.toNat / 2 ^ 192 % 2 ^ 32))
        ∧ readsAs .rdCtBits7 s (BitVec.ofNat 32 (e.val.toNat / 2 ^ 224)))
      ∧ (s.blk.ctValid = false ∨ e.valid = false →
        ∀ i ∈ ([.rdCtLen, .rdCtBits0, .rdCtBits1, .rdCtBits2, .rdCtBits3, .rdCtBits4, .rdCtBits5, .rdCtBits6,
          .rdCtBits7] : List Instr), readsAs i s 0)

/-- 10_state.md R54: OUT_SEL reads back and selects the byte OUT_DATA returns, 0 at and above OUT_LEN. -/
def Obligations.OutputWindow : Prop :=
  ∀ s : State, readsAs .rdOutSel s s.blk.outSel
    ∧ (s.blk.outSel.toNat < s.blk.outLen.toNat →
        readsAs .rdOutData s (BitVec.ofNat 32 (Memory.read s.blk.obuf s.blk.outSel.toNat).toNat))
    ∧ (s.blk.outLen.toNat ≤ s.blk.outSel.toNat → readsAs .rdOutData s 0)

/-- 20_memory.md R87, 40_host_access.md R152: every read yields a word in every state, ERR set or not, changes no state of
the block, and yields the same word whenever the block is the same. -/
def Obligations.ReadsChangeNothing : Prop :=
  ∀ i : Instr, i.isRead = true → ∀ s : State, ∃ v : Word, readsAs i s v
    ∧ ∀ s' : State, s'.blk = s.blk → s'.cfg = s.cfg → readsAs i s' v

/-- 20_memory.md R82, 40_host_access.md R151, R153: a read of an unmapped or write-only address yields 0, a write to an
unmapped or read-only address is ignored; neither changes the block nor raises a fault. -/
def Obligations.AccessesThatMatchNoRegister : Prop :=
  (∀ a : RegAddr, a ∉ readableAddrs → decode (readWord a) = .rdZero a)
  ∧ (∀ (a : RegAddr) (d : Word), a ∉ writableAddrs → decode (writeWord a d) = .wrIgnored a d)
  ∧ (0x00 ∉ readableAddrs ∧ 0x08 ∉ readableAddrs ∧ 0x11 ∉ readableAddrs)
  ∧ (∀ a ∈ readableAddrs, a ∈ writableAddrs → a ∈ [0x0A, 0x10, 0x13, 0x18, 0x20, 0x31])
  ∧ ∀ s : State, (∀ a : RegAddr, readsAs (.rdZero a) s 0) ∧ ∀ (a : RegAddr) (d : Word), exec (.wrIgnored a d) s = .next s

/-! ## Register writes -/

/-- 40_host_access.md R144, R145, R147 to R150: each select or staging register stores its bits of WDATA, in every state
(ERR set or not), and nothing else changes; IN_SEL at or beyond IN_LEN makes IN_DATA read 0, and NODE_SEL = 511 always
selects a record that is not present. -/
def Obligations.SelectWritesStore : Prop :=
  (∀ d : Word, decode (writeWord 0x0A d) = .wrInSel d ∧ decode (writeWord 0x31 d) = .wrOutSel d
    ∧ decode (writeWord 0x10 d) = .wrFtSym (BitVec.ofNat 8 (d.toNat % 2 ^ 8))
    ∧ decode (writeWord 0x13 d) = .wrFtSel (BitVec.ofNat 8 (d.toNat % 2 ^ 8))
    ∧ decode (writeWord 0x18 d) = .wrNodeSel (BitVec.ofNat 9 (d.toNat % 2 ^ 9))
    ∧ decode (writeWord 0x20 d) = .wrCtSel (BitVec.ofNat 8 (d.toNat % 2 ^ 8)))
  ∧ ∀ s : State,
    (∀ x : Word, exec (.wrInSel x) s = .next { s with blk := { s.blk with inSel := x } }
      ∧ (s.blk.inLen.toNat ≤ x.toNat → readsAs .rdInData { s with blk := { s.blk with inSel := x } } 0))
    ∧ (∀ x : Byte, exec (.wrFtSym x) s = .next { s with blk := { s.blk with ftSym := x } })
    ∧ (∀ x : Byte, exec (.wrFtSel x) s = .next { s with blk := { s.blk with ftSel := x } })
    ∧ (∀ x : NodeIndex, exec (.wrNodeSel x) s = .next { s with blk := { s.blk with nodeSel := x } })
    ∧ readsAs .rdNodeInfo { s with blk := { s.blk with nodeSel := 511 } } 0
    ∧ (∀ x : Byte, exec (.wrCtSel x) s = .next { s with blk := { s.blk with ctSel := x } })
    ∧ (∀ x : Word, exec (.wrOutSel x) s = .next { s with blk := { s.blk with outSel := x } })

/-- 40_host_access.md R143: the operand is the low byte of WDATA; with room in IBUF it is appended, IN_LEN moves and the header is invalidated; when IBUF
is full E_IN_OVERFLOW(IN_LEN) is raised and nothing else changes; with ERR set nothing happens. -/
def Obligations.InPushAppends : Prop :=
  (∀ d : Word, decode (writeWord 0x08 d) = .wrInPush (BitVec.ofNat 8 (d.toNat % 2 ^ 8)))
  ∧ ∀ (s : State) (x : Byte),
    (s.blk.err = false → s.blk.inLen ≠ s.cfg.inCap → Memory.wf s.blk.ibuf = true →
      ∃ m : Memory, exec (.wrInPush x) s = .next { s with blk := { s.blk with
          inLen := s.blk.inLen + 1, ibuf := m, hdrValid := false, hdrEnd := 0 } }
        ∧ Memory.read m s.blk.inLen.toNat = x
        ∧ ∀ a, a ≠ s.blk.inLen.toNat → Memory.read m a = Memory.read s.blk.ibuf a)
    ∧ (s.blk.err = false → s.blk.inLen = s.cfg.inCap →
      exec (.wrInPush x) s = .next { s with blk := withFault s.blk 0x04 s.blk.inLen.toNat })
    ∧ (s.blk.err = true → exec (.wrInPush x) s = .next s)

/-- 40_host_access.md R146: with room in FT the record (FT_SYM, count) is appended as given, FT_COUNT moves, tree and
header are invalidated and FT_SYM keeps its value; when 256 records are held E_FT_OVERFLOW(256) is raised and nothing else
changes; with ERR set nothing happens. -/
def Obligations.FtPushAppends : Prop :=
  (∀ d : Word, decode (writeWord 0x11 d) = .wrFtPush d)
  ∧ ∀ (s : State) (c : Word),
    (s.blk.err = false → s.blk.ftCount ≠ 256 → Cells.wf blankRecord s.blk.ft = true →
      ∃ (m : Cells FtRecord) (n : Cells Node) (e : Cells CtEntry),
        exec (.wrFtPush c) s = .next { s with blk := { s.blk with
          ftCount := s.blk.ftCount + 1, ft := m, treeValid := false, ctValid := false, nodeCount := 0, root := 0,
          node := n, ct := e, hdrValid := false, hdrEnd := 0 } }
        ∧ Cells.read blankRecord m s.blk.ftCount.toNat = { sym := s.blk.ftSym, cnt := c }
        ∧ ∀ k, k ≠ s.blk.ftCount.toNat → Cells.read blankRecord m k = s.blk.record k)
    ∧ (s.blk.err = false → s.blk.ftCount = 256 →
      exec (.wrFtPush c) s = .next { s with blk := withFault s.blk 0x05 256 })
    ∧ (s.blk.err = true → exec (.wrFtPush c) s = .next s)

/-- 30_encoding.md R131: pushing bytes one after another appends them to the input, in order, while they fit. -/
def Obligations.LoadingAppendsToTheInput : Prop :=
  ∀ (s : State) (l : List Byte), s.Inv → s.blk.err = false → s.blk.inLen.toNat + l.length ≤ s.cfg.inCap.toNat →
    ∃ t, runInstrs (l.map Instr.wrInPush) s = .next t ∧ t.blk.input = s.blk.input ++ l ∧ t.blk.err = false
      ∧ t.cfg = s.cfg ∧ t.bus = s.bus
      ∧ t.blk = { s.blk with inLen := t.blk.inLen, ibuf := t.blk.ibuf, hdrValid := t.blk.hdrValid, hdrEnd := t.blk.hdrEnd }

/-! ## The error state -/

/-- 60_exceptions.md R303: while STATUS.ERR = 1 every command except SRST, and every write to IN_PUSH and FT_PUSH, changes
no state; select writes and FT_SYM writes still store, and reads still read. -/
def Obligations.StickyErrorIgnoresGatedWrites : Prop :=
  ∀ s : State, s.blk.err = true →
    (∀ i : Instr, i.isGated = true → exec i s = .next s)
    ∧ exec .srst s = .next { s with blk := Block.reset }
    ∧ (∀ x : Word, exec (.wrInSel x) s = .next { s with blk := { s.blk with inSel := x } }
        ∧ exec (.wrOutSel x) s = .next { s with blk := { s.blk with outSel := x } })
    ∧ (∀ x : Byte, exec (.wrFtSym x) s = .next { s with blk := { s.blk with ftSym := x } }
        ∧ exec (.wrFtSel x) s = .next { s with blk := { s.blk with ftSel := x } }
        ∧ exec (.wrCtSel x) s = .next { s with blk := { s.blk with ctSel := x } })
    ∧ (∀ x : NodeIndex, exec (.wrNodeSel x) s = .next { s with blk := { s.blk with nodeSel := x } })
    ∧ ∀ i : Instr, i.isRead = true → ∃ v, readsAs i s v

/-- 60_exceptions.md R315, 10_state.md R36: a step leaves the error state only by SRST or a hard reset, which leave the
block in its reset state; any other step keeps ERR, ERR_CODE and ERR_INFO of the first fault. -/
def Obligations.OnlyResetLeavesTheErrorState : Prop :=
  ∀ s t : State, step s = .next t → s.blk.err = true →
    (t.blk = Block.reset ∧ ∃ e rest, s.bus.pending = e :: rest
        ∧ (e = .hardReset ∨ e = .transaction 0x10000000001))
    ∨ (t.blk.err = true ∧ t.blk.errCode = s.blk.errCode ∧ t.blk.errInfo = s.blk.errInfo)

/-- 60_exceptions.md R301, R308, R310, R311: a transaction other than a pipeline command that raises a fault raises one of
its own, and leaves the state before it, changed only by the clean-up its rule states and by ERR, ERR_CODE and ERR_INFO; a
transaction with no fault of its own raises none. -/
def Obligations.FaultsAreTheirOwnAndPrecise : Prop :=
  ∀ (i : Instr) (s t : State), i ≠ .compress → i ≠ .decompress → s.blk.err = false → exec i s = .next t →
    t.blk.err = true →
    t.cfg = s.cfg ∧ t.bus = s.bus ∧ (∃ f ∈ i.mayRaise, t.blk.errCode = f.code) ∧ ∃ b : Block,
      (b = s.blk ∨ (i = .build ∧ b = invalidateTree s.blk)
        ∨ ((i = .pack ∨ i = .decode) ∧ b = invalidateOutput s.blk)
        ∨ (i = .parse ∧ b = { invalidateTree (invalidateHeader s.blk) with ftCount := 0, ft := [] }))
      ∧ t.blk = { b with err := true, errCode := t.blk.errCode, errInfo := t.blk.errInfo }

/-! ## Control commands -/

/-- 41_control.md R171, 70_reset_and_hazards.md R351, 10_state.md R75: SRST, in every state, gives every component of the
block its reset value, exactly what a hard reset gives; the registers and flags are all 0 and every window reads 0. -/
def Obligations.SrstIsTheResetState : Prop :=
  (∀ s : State, exec .srst s = .next { s with blk := Block.reset } ∧ (hardReset s).blk = Block.reset)
  ∧ (∀ b : Block, b = Block.reset → b.err = false ∧ b.hdrValid = false ∧ b.treeValid = false ∧ b.ctValid = false
      ∧ b.outValid = false ∧ b.errCode = 0 ∧ b.errInfo = 0 ∧ b.inLen = 0 ∧ b.inSel = 0 ∧ b.ftSym = 0 ∧ b.ftCount = 0
      ∧ b.ftSel = 0 ∧ b.nodeSel = 0 ∧ b.nodeCount = 0 ∧ b.root = 0 ∧ b.ctSel = 0 ∧ b.outLen = 0 ∧ b.outSel = 0
      ∧ b.hdrEnd = 0 ∧ b.pad = 0 ∧ b.dbits = 0)
  ∧ ∀ (s : State) (i : Instr), s.blk = Block.reset → i.isRead = true → i ≠ .rdId → i ≠ .rdCapIn → i ≠ .rdCapOut →
      readsAs i s 0

/-- 41_control.md R170, R172, R173: NOP changes nothing, ERR set or not; ICLR empties the input and invalidates the header;
FCLR empties the table and invalidates tree and header; nothing else changes. -/
def Obligations.ControlCommandsEmptyWhatTheyName : Prop :=
  decode 0x10000000000 = .nop ∧ decode 0x10000000002 = .iclr ∧ decode 0x10000000003 = .fclr
  ∧ (∀ s : State, exec .nop s = .next s)
  ∧ ∀ s : State, s.blk.err = false →
    (∃ m : Memory, exec .iclr s = .next { s with blk := { s.blk with
        inLen := 0, ibuf := m, hdrValid := false, hdrEnd := 0 } })
    ∧ ∃ (m : Cells FtRecord) (n : Cells Node) (e : Cells CtEntry),
      exec .fclr s = .next { s with blk := { s.blk with
        ftCount := 0, ft := m, treeValid := false, ctValid := false, nodeCount := 0, root := 0, node := n, ct := e,
        hdrValid := false, hdrEnd := 0 } }

/-- 30_encoding.md R116: a write to CMD of a word that is none of the twelve decodes as illegal; it raises
E_ILLEGAL_CMD(WDATA) when ERR = 0, changing nothing else, and is ignored when ERR = 1. -/
def Obligations.IllegalCommandIsReported : Prop :=
  (∀ w : Word, w ∉ commandWords → decode (writeWord 0x00 w) = .cmdIllegal w)
  ∧ ∀ (s : State) (w : Word),
    (s.blk.err = false → exec (.cmdIllegal w) s = .next { s with blk := withFault s.blk 0x01 w.toNat })
    ∧ (s.blk.err = true → exec (.cmdIllegal w) s = .next s)

/-! ## FREQ -/

/-- 42_freq.md R180, R181: FREQ replaces FT by one record for each byte value of the input, in ascending symbol order,
each with the number of its occurrences; tree and header are invalidated and nothing else changes. -/
def Obligations.FreqCountsTheInput : Prop :=
  ∀ s : State, s.blk.err = false → ∃ t, exec .freq s = .next t ∧ t.cfg = s.cfg ∧ t.bus = s.bus
    ∧ (t.blk.records.map (fun r => r.sym.toNat)).Pairwise (· < ·)
    ∧ (∀ r ∈ t.blk.records, r.cnt.toNat = s.blk.input.count r.sym ∧ 0 < r.cnt.toNat)
    ∧ (∀ x ∈ s.blk.input, x ∈ t.blk.records.map FtRecord.sym)
    ∧ t.blk = { s.blk with
        ft := t.blk.ft, ftCount := t.blk.ftCount, treeValid := false, ctValid := false,
        nodeCount := 0, root := 0, node := t.blk.node, ct := t.blk.ct, hdrValid := false, hdrEnd := 0 }

/-- 42_freq.md R182: after FREQ the table is well formed, FT_COUNT is the number of distinct byte values, FT_TOTAL is
IN_LEN, and FT_COUNT = 0 exactly when IN_LEN = 0. -/
def Obligations.FreqTableIsFaithful : Prop :=
  ∀ s t : State, s.blk.err = false → exec .freq s = .next t →
    tableWf t.blk.records ∧ t.blk.ftCount.toNat = s.blk.input.dedup.length
    ∧ t.blk.ftTotal.toNat = s.blk.inLen.toNat ∧ (t.blk.ftCount = 0 ↔ s.blk.inLen = 0)

/-! ## BUILD -/

/-- 43_build.md R197, R200: an empty table raises E_EMPTY_TABLE(0); an ill-formed one E_FT_ZERO(k) or E_FT_DUP(k) at the
lowest index, zero before duplicate; each leaves the tree invalidated and everything else as it was. -/
def Obligations.BuildFaults : Prop :=
  ∀ s : State, s.blk.err = false →
    ∃ (n : Cells Node) (e : Cells CtEntry), ∀ b : Block, b = { s.blk with
        treeValid := false, ctValid := false,
        nodeCount := 0, root := 0, node := n, ct := e } →
      (s.blk.ftCount = 0 → exec .build s = .next { s with blk := withFault b 0x03 0 })
      ∧ ∀ k, cleanBelow s.blk.records k →
        (zeroAt s.blk.records k → exec .build s = .next { s with blk := withFault b 0x10 k })
        ∧ (¬zeroAt s.blk.records k → repeatAt s.blk.records k →
            exec .build s = .next { s with blk := withFault b 0x11 k })

/-- 43_build.md R190, R191, R195, R196, 10_state.md R50: BUILD of a well-formed table that is not empty completes; the arena
satisfies R50; TREE_VALID is set, CT_VALID cleared, and FT, the buffers and everything else are unchanged. Which nodes each
merge takes is stated by LeftChildIsNeverHeavier. -/
def Obligations.BuildMakesTheTree : Prop :=
  ∀ s : State, s.blk.err = false → s.blk.ftCount ≠ 0 → tableWf s.blk.records →
    ∃ t, exec .build s = .next t ∧ t.cfg = s.cfg ∧ t.bus = s.bus ∧ arenaInv t.blk
      ∧ t.blk = { s.blk with
          node := t.blk.node, nodeCount := t.blk.nodeCount, root := t.blk.root, treeValid := true,
          ctValid := false, ct := t.blk.ct }

/-- 10_state.md R62, 43_build.md R193: extract_min removes and returns the member of least (frequency, index), compared
first by frequency, then by index, and leaves the others; it finds one whenever PQ is not empty. -/
def Obligations.ExtractMinTakesTheLeastKey : Prop :=
  ∀ (arena : List Node) (pq : List Nat), pq ≠ [] → ∃ m, extractMin arena pq = some (m, pq.erase m) ∧ m ∈ pq
    ∧ ∀ x ∈ pq, x = m ∨ (arenaAt arena m).freq.toNat < (arenaAt arena x).freq.toNat
        ∨ ((arenaAt arena m).freq.toNat = (arenaAt arena x).freq.toNat ∧ m < x)

/-- 43_build.md R192, R194, with the order of R193: BUILD of N ≥ 2 records makes N-1 merges, the nodes N to 2N-2; of the
nodes that wait when node i is made (below i, and no child of an internal node below i), its left child is the one of
least (frequency, index), its right child the second, and its frequency is their exact sum. So, for one record too, the
left child's frequency is never larger than the right child's. -/
def Obligations.LeftChildIsNeverHeavier : Prop :=
  ∀ s t : State, s.blk.err = false → s.blk.ftCount ≠ 0 → tableWf s.blk.records → exec .build s = .next t →
    t.blk.ftCount = s.blk.ftCount
    ∧ (2 ≤ t.blk.ftCount.toNat → t.blk.nodeCount.toNat = 2 * t.blk.ftCount.toNat - 1
      ∧ ∀ i l r, t.blk.ftCount.toNat ≤ i → i < t.blk.nodeCount.toNat →
        l = (t.blk.nodeNum i).left.toNat → r = (t.blk.nodeNum i).right.toNat →
        (t.blk.nodeNum i).leaf = false ∧ t.blk.waitsAt i l ∧ t.blk.waitsAt i r ∧ t.blk.keyLess l r
        ∧ (∀ j, t.blk.waitsAt i j → j = l ∨ j = r ∨ t.blk.keyLess r j)
        ∧ (t.blk.nodeNum i).freq.toNat = (t.blk.nodeNum l).freq.toNat + (t.blk.nodeNum r).freq.toNat)
    ∧ ∀ i, t.blk.ftCount.toNat ≤ i → i < t.blk.nodeCount.toNat →
      (t.blk.nodeAt (t.blk.nodeNum i).left).freq.toNat ≤ (t.blk.nodeAt (t.blk.nodeNum i).right).freq.toNat

/-- 43_build.md R203: BUILD is a function of the record list: two blocks, any two machines, with the same records in the
same order get the same NODE, NODE_COUNT and ROOT. -/
def Obligations.BuildDependsOnTheRecordsAlone : Prop :=
  ∀ s s' t t' : State, s.blk.err = false → s'.blk.err = false → s.blk.records = s'.blk.records →
    exec .build s = .next t → exec .build s' = .next t' →
    t.blk.node = t'.blk.node ∧ t.blk.nodeCount = t'.blk.nodeCount ∧ t.blk.root = t'.blk.root
      ∧ t.blk.treeValid = t'.blk.treeValid

/-! ## GENC -/

/-- 44_genc.md R210, R211, R214, 10_state.md R69: without a valid tree GENC raises E_SEQUENCE(0x12) and changes nothing
else; with one it completes: exactly the symbols of FT have a code, each code followed down from ROOT ends at a leaf holding
its symbol, CT_VALID is set and nothing but CT changes. -/
def Obligations.GencRecordsThePathsToTheLeaves : Prop :=
  (∀ s : State, s.blk.err = false → s.blk.treeValid = false →
    exec .genc s = .next { s with blk := withFault s.blk 0x02 0x12 })
  ∧ ∀ s : State, s.blk.err = false → s.blk.treeValid = true → flagsFaithful s.blk →
    ∃ t, exec .genc s = .next t ∧ t.cfg = s.cfg ∧ t.bus = s.bus
      ∧ (∀ x : Byte, (t.blk.code x).valid = true → leadsTo t.blk.node t.blk.root (codeBits (t.blk.code x)) = some x)
      ∧ (∀ x : Byte, (t.blk.code x).valid = true ↔ x ∈ s.blk.records.map FtRecord.sym)
      ∧ t.blk = { s.blk with ct := t.blk.ct, ctValid := true }

/-- 44_genc.md R215: exactly the symbols of FT have a code; every length is at least 1, at most N-1 for N ≥ 2 and at most
255; no code is a prefix of another symbol's; for N ≥ 2 the sum of 2^(-len) is 1; for N = 1 the one code is "0". -/
def Obligations.CodesAreACompletePrefixCode : Prop :=
  ∀ s t : State, s.blk.err = false → s.blk.treeValid = true → flagsFaithful s.blk → exec .genc s = .next t →
    (∀ x : Byte, (t.blk.code x).valid = true ↔ x ∈ s.blk.records.map FtRecord.sym)
    ∧ (∀ x : Byte, (t.blk.code x).valid = true →
        1 ≤ (t.blk.code x).len.toNat ∧ (2 ≤ s.blk.ftCount.toNat → (t.blk.code x).len.toNat ≤ s.blk.ftCount.toNat - 1)
        ∧ (t.blk.code x).len.toNat ≤ 255)
    ∧ (∀ x y : Byte, (t.blk.code x).valid = true → (t.blk.code y).valid = true → x ≠ y →
        ¬ codeBits (t.blk.code x) <+: codeBits (t.blk.code y))
    ∧ (2 ≤ s.blk.ftCount.toNat →
        (s.blk.records.map (fun r => 2 ^ (255 - (t.blk.code r.sym).len.toNat))).sum = 2 ^ 255)
    ∧ (s.blk.ftCount.toNat = 1 → ∀ x : Byte, (t.blk.code x).valid = true → codeBits (t.blk.code x) = [false])

/-! ## PACK -/

/-- 45_pack.md R220, R228, 10_state.md R68, R69: the faults of PACK in order: E_SEQUENCE(0x13), which changes nothing else;
then, with the output emptied, E_FT_MISMATCH(IN_LEN), E_NO_CODE at the first byte without a code, E_OUT_OVERFLOW(size). -/
def Obligations.PackFaults : Prop :=
  ∀ s : State, s.blk.err = false →
    (s.blk.ftCount ≠ 0 → s.blk.ctValid = false → exec .pack s = .next { s with blk := withFault s.blk 0x02 0x13 })
    ∧ ((s.blk.ftCount = 0 ∨ s.blk.ctValid = true) → ∃ m : Memory, ∀ b : Block,
        b = { s.blk with outValid := false, outLen := 0, obuf := m, pad := 0, dbits := 0 } →
        (s.blk.ftTotal.toNat ≠ s.blk.inLen.toNat →
          exec .pack s = .next { s with blk := withFault b 0x13 s.blk.inLen.toNat })
        ∧ (s.blk.ftTotal.toNat = s.blk.inLen.toNat → ∀ i x, s.blk.input[i]? = some x → (s.blk.code x).valid = false →
            (∀ y ∈ s.blk.input.take i, (s.blk.code y).valid = true) →
            exec .pack s = .next { s with blk := withFault b 0x12 i })
        ∧ (s.blk.ftTotal.toNat = s.blk.inLen.toNat → (∀ y ∈ s.blk.input, (s.blk.code y).valid = true) →
            ∀ len size, len = (s.blk.input.map (fun y => (s.blk.code y).len.toNat)).sum →
            size = 3 + 5 * s.blk.ftCount.toNat + (len + (8 - len % 8) % 8) / 8 → s.cfg.outCap.toNat < size →
            exec .pack s = .next { s with blk := withFault b 0x06 size }))

/-- 45_pack.md R222 to R226, 20_memory.md R84, R85: a PACK that passes its checks completes; the output is the header (the
number of records and the records in FT order, big-endian), then bytes whose bits, most significant first, are the padding
count, the codes of the input bytes in input order, and the padding zeros; OUT_LEN, PAD and DBITS say so, and nothing but
the output state changes. -/
def Obligations.PackWritesTheContainer : Prop :=
  ∀ (s : State) (bits : List Bool) (pad : Nat), s.blk.err = false → (s.blk.ftCount = 0 ∨ s.blk.ctValid = true) →
    s.blk.ftTotal.toNat = s.blk.inLen.toNat → (∀ y ∈ s.blk.input, (s.blk.code y).valid = true) →
    bits = s.blk.input.flatMap (fun y => codeBits (s.blk.code y)) → pad = (8 - bits.length % 8) % 8 →
    3 + 5 * s.blk.ftCount.toNat + (bits.length + pad) / 8 ≤ s.cfg.outCap.toNat →
    ∃ (t : State) (packed : List Byte), exec .pack s = .next t ∧ t.cfg = s.cfg ∧ t.bus = s.bus
      ∧ t.blk.output = headerBytes s.blk.records ++ packed
      ∧ packed.flatMap byteBits = byteBits (BitVec.ofNat 8 pad) ++ bits ++ List.replicate pad false
      ∧ packed.length = 1 + (bits.length + pad) / 8 ∧ packed.head? = some (BitVec.ofNat 8 pad) ∧ pad ≤ 7
      ∧ t.blk.outLen.toNat = 3 + 5 * s.blk.ftCount.toNat + (bits.length + pad) / 8
      ∧ t.blk.pad.toNat = pad ∧ t.blk.dbits.toNat = bits.length
      ∧ t.blk = { s.blk with
          obuf := t.blk.obuf, outLen := t.blk.outLen, pad := t.blk.pad, dbits := t.blk.dbits,
          outValid := true }

/-- 45_pack.md R231: after a successful PACK the padding-count byte equals PAD and the packed bits are DBITS + PAD, eight
for each byte after it. -/
def Obligations.PaddingIsCorrect : Prop :=
  ∀ s t : State, s.blk.err = false → exec .pack s = .next t → t.blk.err = false →
    (Memory.read t.blk.obuf (2 + 5 * t.blk.ftCount.toNat)).toNat = t.blk.pad.toNat
    ∧ 8 * (t.blk.outLen.toNat - (3 + 5 * t.blk.ftCount.toNat)) = t.blk.dbits.toNat + t.blk.pad.toNat
    ∧ 3 + 5 * t.blk.ftCount.toNat ≤ t.blk.outLen.toNat

/-- 45_pack.md R229, 46_unpack.md R254: with an empty input and an empty table PACK needs no tree and writes the three bytes
00 00 00; with an empty table and no data bits DECODE gives the empty output. In both PAD and DBITS are 0, OUT_VALID is set
and nothing but the output state changes. -/
def Obligations.EmptyInputAndEmptyTable : Prop :=
  (∀ s : State, s.blk.err = false → s.blk.inLen = 0 → s.blk.ftCount = 0 → 3 ≤ s.cfg.outCap.toNat →
    ∃ t, exec .pack s = .next t ∧ t.cfg = s.cfg ∧ t.bus = s.bus ∧ t.blk.output = [0x00, 0x00, 0x00]
      ∧ t.blk = { s.blk with obuf := t.blk.obuf, outLen := 3, pad := 0, dbits := 0, outValid := true })
  ∧ ∀ s : State, s.blk.err = false → decodeStarts s.blk → s.blk.ftCount = 0 →
    (Memory.read s.blk.ibuf s.blk.hdrEnd.toNat).toNat = 8 * (s.blk.inLen.toNat - s.blk.hdrEnd.toNat - 1) →
    ∃ t, exec .decode s = .next t ∧ t.cfg = s.cfg ∧ t.bus = s.bus ∧ t.blk.output = []
      ∧ t.blk = { s.blk with obuf := t.blk.obuf, outLen := 0, pad := 0, dbits := 0, outValid := true }

/-! ## PARSE -/

/-- 46_unpack.md R242: the faults of PARSE in order; each leaves the table, the tree and the header empty and everything
else as it was. -/
def Obligations.ParseFaults : Prop :=
  ∀ (s : State) (n : Nat), s.blk.err = false →
    n = 256 * (Memory.read s.blk.ibuf 0).toNat + (Memory.read s.blk.ibuf 1).toNat →
    ∃ (m : Cells FtRecord) (nd : Cells Node) (e : Cells CtEntry), ∀ b : Block,
      b = { s.blk with
        ftCount := 0, ft := m, treeValid := false, ctValid := false, nodeCount := 0, root := 0, node := nd,
        ct := e, hdrValid := false, hdrEnd := 0 } →
      (s.blk.inLen.toNat < 2 → exec .parse s = .next { s with blk := withFault b 0x20 s.blk.inLen.toNat })
      ∧ (2 ≤ s.blk.inLen.toNat → 256 < n → exec .parse s = .next { s with blk := withFault b 0x21 n })
      ∧ (2 ≤ s.blk.inLen.toNat → n ≤ 256 → s.blk.inLen.toNat < 2 + 5 * n →
          exec .parse s = .next { s with blk := withFault b 0x20 s.blk.inLen.toNat })
      ∧ ∀ (recs : List FtRecord) (rest : List Byte), recs.length ≤ 256 → s.blk.input = headerBytes recs ++ rest →
          ∀ k, cleanBelow recs k →
          (zeroAt recs k → exec .parse s = .next { s with blk := withFault b 0x10 k })
          ∧ (¬zeroAt recs k → repeatAt recs k → exec .parse s = .next { s with blk := withFault b 0x11 k })

/-- 46_unpack.md R240, R241: when the input begins with the header of a well-formed table, PARSE completes: FT is that
table in the container's order, HDR_END is 2 + 5N, HDR_VALID is set, the tree is invalidated, and nothing else changes. -/
def Obligations.ParseRestoresTheTable : Prop :=
  ∀ (s : State) (recs : List FtRecord) (rest : List Byte), s.blk.err = false → tableWf recs →
    s.blk.input = headerBytes recs ++ rest →
    ∃ t, exec .parse s = .next t ∧ t.cfg = s.cfg ∧ t.bus = s.bus ∧ t.blk.records = recs
      ∧ t.blk.ftCount.toNat = recs.length ∧ t.blk.hdrEnd.toNat = 2 + 5 * recs.length
      ∧ t.blk = { s.blk with
          ft := t.blk.ft, ftCount := t.blk.ftCount, hdrEnd := t.blk.hdrEnd, hdrValid := true,
          treeValid := false, ctValid := false, nodeCount := 0, root := 0, node := t.blk.node, ct := t.blk.ct }

/-! ## DECODE -/

/-- 46_unpack.md R245, R249, R254, R256: the faults of DECODE before the walk, in order: E_SEQUENCE(0x15), which changes
nothing else; then, with the output emptied, E_PAD_MISSING, E_PAD_RANGE, E_PAD_EXCEEDS; and E_TRUNCATED(0) for data bits
with an empty table. -/
def Obligations.DecodeHeaderFaults : Prop :=
  ∀ (s : State) (pad nbits : Nat), s.blk.err = false → pad = (Memory.read s.blk.ibuf s.blk.hdrEnd.toNat).toNat →
    nbits = 8 * (s.blk.inLen.toNat - s.blk.hdrEnd.toNat - 1) →
    (s.blk.hdrValid = false ∨ (s.blk.ftCount ≠ 0 ∧ s.blk.treeValid = false) →
      exec .decode s = .next { s with blk := withFault s.blk 0x02 0x15 })
    ∧ (s.blk.hdrValid = true → (s.blk.ftCount = 0 ∨ s.blk.treeValid = true) → ∃ m : Memory, ∀ b : Block,
        b = { s.blk with outValid := false, outLen := 0, obuf := m, pad := 0, dbits := 0 } →
        (s.blk.inLen.toNat < s.blk.hdrEnd.toNat + 1 →
          exec .decode s = .next { s with blk := withFault b 0x22 s.blk.inLen.toNat })
        ∧ (s.blk.hdrEnd.toNat + 1 ≤ s.blk.inLen.toNat → 7 < pad →
            exec .decode s = .next { s with blk := withFault b 0x23 pad })
        ∧ (s.blk.hdrEnd.toNat + 1 ≤ s.blk.inLen.toNat → pad ≤ 7 → nbits < pad →
            exec .decode s = .next { s with blk := withFault b 0x24 pad })
        ∧ (s.blk.hdrEnd.toNat + 1 ≤ s.blk.inLen.toNat → pad ≤ 7 → pad < nbits → s.blk.ftCount = 0 →
            exec .decode s = .next { s with blk := withFault b 0x30 0 }))

/-- 46_unpack.md R245 to R247, R250: when the padding count is in order and the data bits spell FT_TOTAL symbols that fit
in OBUF, each by the path from ROOT to its leaf, DECODE completes: the output is those symbols in order, PAD and DBITS are
the padding count and the number of data bits, and nothing but the output state changes. -/
def Obligations.DecodeEmitsTheSymbols : Prop :=
  ∀ (s : State) (ws : List (List Bool × Byte)), s.blk.err = false → decodeStarts s.blk → s.blk.ftCount ≠ 0 →
    spells s.blk ws → ws.length = s.blk.ftTotal.toNat → ws.length ≤ s.cfg.outCap.toNat →
    streamBits s.blk = ws.flatMap Prod.fst →
    ∃ t, exec .decode s = .next t ∧ t.cfg = s.cfg ∧ t.bus = s.bus ∧ t.blk.output = ws.map Prod.snd
      ∧ t.blk.pad.toNat = (Memory.read s.blk.ibuf s.blk.hdrEnd.toNat).toNat
      ∧ t.blk.dbits.toNat = (ws.flatMap Prod.fst).length
      ∧ t.blk = { s.blk with
          obuf := t.blk.obuf, outLen := t.blk.outLen, pad := t.blk.pad, dbits := t.blk.dbits,
          outValid := true }

/-- 46_unpack.md R246, R247: the data bits are the bits of the bytes after the padding-count byte, most significant first,
without the last pad of them. -/
def Obligations.DataBitsStripThePadding : Prop :=
  ∀ b : Block, decodeStarts b →
    ∃ filler : List Bool, filler.length = (Memory.read b.ibuf b.hdrEnd.toNat).toNat
      ∧ streamBits b ++ filler = (b.input.drop (b.hdrEnd.toNat + 1)).flatMap byteBits

/-- 46_unpack.md R252, R253, R255: after the padding checks, with a tree: a symbol beyond OUT_CAP raises E_OUT_OVERFLOW
(OUT_CAP); bits left over mid-code raise E_TRUNCATED at the first bit of the incomplete code; a number of symbols other
than FT_TOTAL raises E_LEN_MISMATCH; each leaves the output empty and everything else as it was. -/
def Obligations.DecodeStreamFaults : Prop :=
  ∀ (s : State) (ws : List (List Bool × Byte)) (tail : List Bool), s.blk.err = false → decodeStarts s.blk →
    s.blk.ftCount ≠ 0 → arenaInv s.blk → spells s.blk ws → streamBits s.blk = ws.flatMap Prod.fst ++ tail →
    ∃ m : Memory, ∀ b : Block, b = { s.blk with outValid := false, outLen := 0, obuf := m, pad := 0, dbits := 0 } →
      (s.cfg.outCap.toNat < ws.length →
        exec .decode s = .next { s with blk := withFault b 0x06 s.cfg.outCap.toNat })
      ∧ (ws.length ≤ s.cfg.outCap.toNat → tail ≠ [] → meetsNoLeaf s.blk.node s.blk.root tail = true →
        exec .decode s = .next { s with blk := withFault b 0x30 (ws.flatMap Prod.fst).length })
      ∧ (ws.length ≤ s.cfg.outCap.toNat → tail = [] → ws.length ≠ s.blk.ftTotal.toNat →
        exec .decode s = .next { s with blk := withFault b 0x25 ws.length })

/-- 46_unpack.md R251: with one record every data bit, 0 or 1, emits the symbol: D data bits give D symbols. -/
def Obligations.SingleSymbolDecodesAnyBits : Prop :=
  ∀ s : State, s.blk.err = false → decodeStarts s.blk → s.blk.ftCount.toNat = 1 → arenaInv s.blk →
    (streamBits s.blk).length = s.blk.ftTotal.toNat → (streamBits s.blk).length ≤ s.cfg.outCap.toNat →
    ∃ t, exec .decode s = .next t ∧ t.blk.err = false ∧ t.blk.outValid = true
      ∧ t.blk.output = List.replicate (streamBits s.blk).length (s.blk.record 0).sym

/-! ## COMPRESS and DECOMPRESS -/

/-- 47_macro.md R260: COMPRESS is FREQ, then BUILD and GENC unless the table is empty, then PACK, each on the state the
one before left. -/
def Obligations.CompressIsItsSteps : Prop :=
  ∀ s u : State, s.blk.err = false → exec .freq s = .next u →
    exec .compress s = if u.blk.ftCount = 0 then exec .pack u else runInstrs [.build, .genc, .pack] u

/-- 47_macro.md R261, R262: DECOMPRESS is PARSE, then BUILD unless the table is empty, then DECODE, each on the state the
one before left; on a fault of PARSE it stops there. -/
def Obligations.DecompressIsItsSteps : Prop :=
  ∀ s u : State, s.blk.err = false → exec .parse s = .next u →
    exec .decompress s = if u.blk.err = true then .next u
      else if u.blk.ftCount = 0 then exec .decode u else runInstrs [.build, .decode] u

/-- 47_macro.md R261: when the input is the header of a well-formed table that is not empty, a padding count of 0 to 7, and
bytes whose bits are codes of the tree made from that table (FT_TOTAL of them, and they fit in OBUF) and then that many
filler bits, DECOMPRESS completes: the output is the codes' symbols in order, FT is that table, HDR_VALID, TREE_VALID and
OUT_VALID are set, CT_VALID is clear, PAD and DBITS say the filler and the data bits. -/
def Obligations.DecompressReturnsTheSpelledBytes : Prop :=
  ∀ (s : State) (recs : List FtRecord) (pad : Nat) (packed : List Byte) (ws : List (List Bool × Byte)) (filler : List Bool),
    s.blk.err = false → tableWf recs → recs ≠ [] → pad ≤ 7 → filler.length = pad →
    s.blk.input = headerBytes recs ++ BitVec.ofNat 8 pad :: packed →
    (∀ w ∈ ws, leadsTo (Cells.ofList blankNode (buildTree recs).1) (BitVec.ofNat 9 (buildTree recs).2) w.1 = some w.2) →
    packed.flatMap byteBits = ws.flatMap Prod.fst ++ filler →
    ws.length = (recs.map (fun r => r.cnt.toNat)).sum → ws.length ≤ s.cfg.outCap.toNat →
    ∃ t, exec .decompress s = .next t ∧ t.cfg = s.cfg ∧ t.bus = s.bus ∧ t.blk.output = ws.map Prod.snd
      ∧ t.blk.records = recs ∧ t.blk.hdrEnd.toNat = 2 + 5 * recs.length ∧ t.blk.pad.toNat = pad
      ∧ t.blk.dbits.toNat = (ws.flatMap Prod.fst).length
      ∧ t.blk = { s.blk with
          ft := t.blk.ft, ftCount := t.blk.ftCount, hdrEnd := t.blk.hdrEnd, hdrValid := true, treeValid := true,
          ctValid := false, nodeCount := t.blk.nodeCount, root := t.blk.root, node := t.blk.node, ct := t.blk.ct,
          obuf := t.blk.obuf, outLen := t.blk.outLen, pad := t.blk.pad, dbits := t.blk.dbits, outValid := true }

/-- 47_macro.md R260, R262: COMPRESS completes exactly when the container fits OUT_CAP, with TREE_VALID and CT_VALID set
(clear for an empty input), HDR_VALID clear and OUT_VALID set; else it raises E_OUT_OVERFLOW(size), its only fault, with
the output empty. An output buffer of 1283 + 32 x IN_LEN bytes is always enough. -/
def Obligations.CompressCompletesWhenTheContainerFits : Prop :=
  ∀ s : State, s.blk.err = false → ∃ t, exec .compress s = .next t ∧ t.blk.input = s.blk.input
    ∧ (containerSize t.blk ≤ s.cfg.outCap.toNat → t.blk.err = false ∧ t.blk.outLen.toNat = containerSize t.blk
        ∧ t.blk.outValid = true ∧ t.blk.hdrValid = false
        ∧ (t.blk.treeValid = true ↔ s.blk.inLen ≠ 0) ∧ (t.blk.ctValid = true ↔ s.blk.inLen ≠ 0))
    ∧ (s.cfg.outCap.toNat < containerSize t.blk → t.blk.err = true ∧ t.blk.errCode = 0x06
        ∧ t.blk.errInfo = BitVec.ofNat 32 (containerSize t.blk) ∧ t.blk.outLen = 0 ∧ t.blk.outValid = false)
    ∧ (1283 + 32 * s.blk.inLen.toNat ≤ s.cfg.outCap.toNat → t.blk.err = false)

/-- 47_macro.md R262: the faults of DECOMPRESS are those of PARSE and of DECODE other than E_SEQUENCE, and the only fault
of COMPRESS is E_OUT_OVERFLOW. -/
def Obligations.FaultsOfThePipelineCommands : Prop :=
  ∀ (i : Instr) (s t : State), i = .compress ∨ i = .decompress → s.blk.err = false → exec i s = .next t →
    t.blk.err = true → ∃ f ∈ i.mayRaise, t.blk.errCode = f.code

/-- 45_pack.md R228, 46_unpack.md R258, 47_macro.md R261: whatever table PACK was given, if it wrote a container, any
block that holds that container as its input, and has room for the original, DECOMPRESSes it to the original. -/
def Obligations.DecompressRecoversThePackedInput : Prop :=
  ∀ s t u : State, s.blk.err = false → flagsFaithful s.blk → exec .pack s = .next t → t.blk.err = false →
    u.blk.err = false → u.blk.input = t.blk.output → s.blk.inLen.toNat ≤ u.cfg.outCap.toNat →
    ∃ v, exec .decompress u = .next v ∧ v.blk.err = false ∧ v.blk.output = s.blk.input ∧ v.blk.outValid = true
      ∧ v.blk.hdrValid = true ∧ v.blk.ctValid = false ∧ (v.blk.treeValid = true ↔ s.blk.ftCount ≠ 0)
      ∧ v.blk.records = s.blk.records ∧ v.blk.pad = t.blk.pad ∧ v.blk.dbits = t.blk.dbits

/-- 46_unpack.md R258: for every byte sequence that fits IBUF and OBUF, whose container fits both: load it, COMPRESS, move
the container to IBUF after ICLR, DECOMPRESS; the output is the sequence and no fault is raised. -/
def Obligations.RoundTrip : Prop :=
  ∀ (c : Config) (x : List Byte), c.admissible → x.length ≤ c.inCap.toNat → x.length ≤ c.outCap.toNat →
    ∃ t, runInstrs (x.map Instr.wrInPush ++ [.compress]) (State.resetWith c) = .next t
      ∧ (containerSize t.blk ≤ c.outCap.toNat → containerSize t.blk ≤ c.inCap.toNat →
        t.blk.err = false ∧ t.blk.output.length = containerSize t.blk
        ∧ ∃ u, runInstrs (.iclr :: t.blk.output.map Instr.wrInPush ++ [.decompress]) t = .next u
          ∧ u.blk.err = false ∧ u.blk.output = x)

/-- 46_unpack.md R259: decoding a container that PACK produced, without its last byte, always raises a fault: PARSE still
succeeds, and nothing is returned. -/
def Obligations.TruncationIsReported : Prop :=
  ∀ s t u : State, s.blk.err = false → flagsFaithful s.blk → exec .pack s = .next t → t.blk.err = false →
    u.blk.err = false → u.blk.input = t.blk.output.dropLast →
    ∃ v, exec .decompress u = .next v ∧ v.blk.err = true ∧ v.blk.hdrValid = true ∧ v.blk.outLen = 0
      ∧ v.blk.outValid = false
      ∧ (s.blk.inLen.toNat ≤ u.cfg.outCap.toNat →
          (t.blk.dbits.toNat = 0 → v.blk.errCode = 0x22)
          ∧ (1 ≤ t.blk.dbits.toNat → t.blk.dbits.toNat ≤ 7 → v.blk.errCode = 0x24)
          ∧ (t.blk.dbits.toNat = 8 → v.blk.errCode = 0x25)
          ∧ (8 < t.blk.dbits.toNat → v.blk.errCode = 0x30 ∨ v.blk.errCode = 0x25))

/-- 44_genc.md R216: GENC after BUILD after PARSE of a container gives the code table that was used to write it. -/
def Obligations.CodeTableIsRestored : Prop :=
  ∀ s t u : State, s.blk.err = false → flagsFaithful s.blk → s.blk.ftCount ≠ 0 → exec .pack s = .next t →
    t.blk.err = false → u.blk.err = false → u.blk.input = t.blk.output →
    ∃ v, runInstrs [.parse, .build, .genc] u = .next v ∧ v.blk.err = false ∧ v.blk.ctValid = true
      ∧ v.blk.records = s.blk.records ∧ ∀ x : Byte, v.blk.code x = s.blk.code x

/-! ## Invariants and whole-machine rules -/

/-- The invariants hold after reset, whatever the capacities, and of the machine State.reset (whose capacities are the
model's choice, log entry 1). -/
def Obligations.ResetMeetsTheInvariants : Prop :=
  (∀ c : Config, c.admissible → (State.resetWith c).Inv ∧ flagsFaithful (State.resetWith c).blk)
  ∧ State.reset.Inv ∧ State.reset = State.resetWith Config.usual

/-- 10_state.md R70: every step keeps the global invariants (a) to (f). -/
def Obligations.StepKeepsTheGlobalInvariants : Prop :=
  ∀ s t : State, globalInv s.cfg s.blk → step s = .next t → globalInv t.cfg t.blk

/-- 10_state.md R34: every step keeps what the valid flags say: TREE_VALID, that the arena is what BUILD makes of the
records now in FT; CT_VALID, that CT is what GENC makes of the tree now in NODE; HDR_VALID, that FT and HDR_END are what
PARSE makes of the bytes now in IBUF. -/
def Obligations.StepKeepsTheFlagsFaithful : Prop :=
  ∀ s t : State, flagsFaithful s.blk → step s = .next t → flagsFaithful t.blk

/-- The model's storage (log entries 4, 5): every step keeps every memory in its one canonical form, with nothing listed
that is no state of the block, and the capacities admissible. -/
def Obligations.StepKeepsTheStorageCanonical : Prop :=
  ∀ s t : State, s.Inv → step s = .next t → t.cfg.admissible ∧ storageInv t.blk

/-- 10_state.md R66, R67: a transaction other than a pipeline command that changes the table leaves the tree and the codes
invalid; one that changes the input, or (PARSE apart) the table, leaves the header invalid. -/
def Obligations.ChangesInvalidateWhatDependsOnThem : Prop :=
  ∀ (i : Instr) (s t : State), exec i s = .next t → i ≠ .compress → i ≠ .decompress →
    (t.blk.records ≠ s.blk.records →
      t.blk.treeValid = false ∧ t.blk.ctValid = false ∧ t.blk.nodeCount = 0 ∧ t.blk.root = 0)
    ∧ (t.blk.input ≠ s.blk.input → t.blk.hdrValid = false ∧ t.blk.hdrEnd = 0)
    ∧ (t.blk.records ≠ s.blk.records → i ≠ .parse → t.blk.hdrValid = false ∧ t.blk.hdrEnd = 0)

/-- 70_reset_and_hazards.md R361(f), (g): no command but SRST, and no push, changes a select register or FT_SYM. -/
def Obligations.CommandsKeepTheSelectRegisters : Prop :=
  ∀ (i : Instr) (s t : State), i.isGated = true → exec i s = .next t →
    t.blk.inSel = s.blk.inSel ∧ t.blk.ftSel = s.blk.ftSel ∧ t.blk.nodeSel = s.blk.nodeSel ∧ t.blk.ctSel = s.blk.ctSel
      ∧ t.blk.outSel = s.blk.outSel ∧ t.blk.ftSym = s.blk.ftSym
end

