-- ==== Sys2Proof/Laws/State.lean ====
section
/-! SUPPORT. One lemma per field per update of State and of Block, true by rfl, so that no later proof unfolds a record
update. -/

namespace Sys2Proof.Machine

/-! ## State -/

@[simp] theorem withBlk_blk (s : State) (b : Block) : (s.withBlk b).blk = b := rfl
@[simp] theorem withBlk_cfg (s : State) (b : Block) : (s.withBlk b).cfg = s.cfg := rfl
@[simp] theorem withBlk_bus (s : State) (b : Block) : (s.withBlk b).bus = s.bus := rfl
@[simp] theorem withBlk_self (s : State) : s.withBlk s.blk = s := rfl
@[simp] theorem withBlk_withBlk (s : State) (a b : Block) : (s.withBlk a).withBlk b = s.withBlk b := rfl
@[simp] theorem withPending_blk (s : State) (p : List BusEvent) : (s.withPending p).blk = s.blk := rfl
@[simp] theorem withPending_cfg (s : State) (p : List BusEvent) : (s.withPending p).cfg = s.cfg := rfl
@[simp] theorem withPending_pending (s : State) (p : List BusEvent) : (s.withPending p).bus.pending = p := rfl
@[simp] theorem withPending_lastRead (s : State) (p : List BusEvent) :
    (s.withPending p).bus.lastRead = s.bus.lastRead := rfl
@[simp] theorem yieldRead_blk (s : State) (v : Word) : (s.yieldRead v).blk = s.blk := rfl
@[simp] theorem yieldRead_cfg (s : State) (v : Word) : (s.yieldRead v).cfg = s.cfg := rfl
@[simp] theorem yieldRead_pending (s : State) (v : Word) : (s.yieldRead v).bus.pending = s.bus.pending := rfl
@[simp] theorem yieldRead_lastRead (s : State) (v : Word) : (s.yieldRead v).bus.lastRead = some v := rfl
@[simp] theorem hardReset_blk (s : State) : (hardReset s).blk = Block.reset := rfl
@[simp] theorem hardReset_cfg (s : State) : (hardReset s).cfg = s.cfg := rfl
@[simp] theorem hardReset_bus (s : State) : (hardReset s).bus = s.bus := rfl
@[simp] theorem present_blk (e : BusEvent) (s : State) : (present e s).blk = s.blk := rfl
@[simp] theorem present_cfg (e : BusEvent) (s : State) : (present e s).cfg = s.cfg := rfl
@[simp] theorem present_pending (e : BusEvent) (s : State) : (present e s).bus.pending = e :: s.bus.pending := rfl
@[simp] theorem resetWith_cfg (c : Config) : (State.resetWith c).cfg = c := rfl
@[simp] theorem resetWith_blk (c : Config) : (State.resetWith c).blk = Block.reset := rfl
@[simp] theorem resetBlock_eq (b : Block) : resetBlock b = Block.reset := rfl
@[simp] theorem result_ok_block (b : Block) : (Result.ok b).block = b := rfl
@[simp] theorem result_faulted_block (b : Block) : (Result.faulted b).block = b := rfl

/-! ## faultEntry -/

@[simp] theorem faultEntry_err (f : FaultKind) (info : Nat) (b : Block) : (faultEntry f info b).err = true := rfl
@[simp] theorem faultEntry_hdrValid (f : FaultKind) (info : Nat) (b : Block) : (faultEntry f info b).hdrValid = b.hdrValid := rfl
@[simp] theorem faultEntry_treeValid (f : FaultKind) (info : Nat) (b : Block) : (faultEntry f info b).treeValid = b.treeValid := rfl
@[simp] theorem faultEntry_ctValid (f : FaultKind) (info : Nat) (b : Block) : (faultEntry f info b).ctValid = b.ctValid := rfl
@[simp] theorem faultEntry_outValid (f : FaultKind) (info : Nat) (b : Block) : (faultEntry f info b).outValid = b.outValid := rfl
@[simp] theorem faultEntry_errCode (f : FaultKind) (info : Nat) (b : Block) : (faultEntry f info b).errCode = f.code := rfl
@[simp] theorem faultEntry_errInfo (f : FaultKind) (info : Nat) (b : Block) : (faultEntry f info b).errInfo = BitVec.ofNat 32 info := rfl
@[simp] theorem faultEntry_inLen (f : FaultKind) (info : Nat) (b : Block) : (faultEntry f info b).inLen = b.inLen := rfl
@[simp] theorem faultEntry_inSel (f : FaultKind) (info : Nat) (b : Block) : (faultEntry f info b).inSel = b.inSel := rfl
@[simp] theorem faultEntry_ibuf (f : FaultKind) (info : Nat) (b : Block) : (faultEntry f info b).ibuf = b.ibuf := rfl
@[simp] theorem faultEntry_ftSym (f : FaultKind) (info : Nat) (b : Block) : (faultEntry f info b).ftSym = b.ftSym := rfl
@[simp] theorem faultEntry_ftCount (f : FaultKind) (info : Nat) (b : Block) : (faultEntry f info b).ftCount = b.ftCount := rfl
@[simp] theorem faultEntry_ftSel (f : FaultKind) (info : Nat) (b : Block) : (faultEntry f info b).ftSel = b.ftSel := rfl
@[simp] theorem faultEntry_ft (f : FaultKind) (info : Nat) (b : Block) : (faultEntry f info b).ft = b.ft := rfl
@[simp] theorem faultEntry_nodeSel (f : FaultKind) (info : Nat) (b : Block) : (faultEntry f info b).nodeSel = b.nodeSel := rfl
@[simp] theorem faultEntry_nodeCount (f : FaultKind) (info : Nat) (b : Block) : (faultEntry f info b).nodeCount = b.nodeCount := rfl
@[simp] theorem faultEntry_root (f : FaultKind) (info : Nat) (b : Block) : (faultEntry f info b).root = b.root := rfl
@[simp] theorem faultEntry_node (f : FaultKind) (info : Nat) (b : Block) : (faultEntry f info b).node = b.node := rfl
@[simp] theorem faultEntry_ctSel (f : FaultKind) (info : Nat) (b : Block) : (faultEntry f info b).ctSel = b.ctSel := rfl
@[simp] theorem faultEntry_ct (f : FaultKind) (info : Nat) (b : Block) : (faultEntry f info b).ct = b.ct := rfl
@[simp] theorem faultEntry_outLen (f : FaultKind) (info : Nat) (b : Block) : (faultEntry f info b).outLen = b.outLen := rfl
@[simp] theorem faultEntry_outSel (f : FaultKind) (info : Nat) (b : Block) : (faultEntry f info b).outSel = b.outSel := rfl
@[simp] theorem faultEntry_obuf (f : FaultKind) (info : Nat) (b : Block) : (faultEntry f info b).obuf = b.obuf := rfl
@[simp] theorem faultEntry_hdrEnd (f : FaultKind) (info : Nat) (b : Block) : (faultEntry f info b).hdrEnd = b.hdrEnd := rfl
@[simp] theorem faultEntry_pad (f : FaultKind) (info : Nat) (b : Block) : (faultEntry f info b).pad = b.pad := rfl
@[simp] theorem faultEntry_dbits (f : FaultKind) (info : Nat) (b : Block) : (faultEntry f info b).dbits = b.dbits := rfl

/-! ## invalidateTree -/

@[simp] theorem invalidateTree_err (b : Block) : (invalidateTree b).err = b.err := rfl
@[simp] theorem invalidateTree_hdrValid (b : Block) : (invalidateTree b).hdrValid = b.hdrValid := rfl
@[simp] theorem invalidateTree_treeValid (b : Block) : (invalidateTree b).treeValid = false := rfl
@[simp] theorem invalidateTree_ctValid (b : Block) : (invalidateTree b).ctValid = false := rfl
@[simp] theorem invalidateTree_outValid (b : Block) : (invalidateTree b).outValid = b.outValid := rfl
@[simp] theorem invalidateTree_errCode (b : Block) : (invalidateTree b).errCode = b.errCode := rfl
@[simp] theorem invalidateTree_errInfo (b : Block) : (invalidateTree b).errInfo = b.errInfo := rfl
@[simp] theorem invalidateTree_inLen (b : Block) : (invalidateTree b).inLen = b.inLen := rfl
@[simp] theorem invalidateTree_inSel (b : Block) : (invalidateTree b).inSel = b.inSel := rfl
@[simp] theorem invalidateTree_ibuf (b : Block) : (invalidateTree b).ibuf = b.ibuf := rfl
@[simp] theorem invalidateTree_ftSym (b : Block) : (invalidateTree b).ftSym = b.ftSym := rfl
@[simp] theorem invalidateTree_ftCount (b : Block) : (invalidateTree b).ftCount = b.ftCount := rfl
@[simp] theorem invalidateTree_ftSel (b : Block) : (invalidateTree b).ftSel = b.ftSel := rfl
@[simp] theorem invalidateTree_ft (b : Block) : (invalidateTree b).ft = b.ft := rfl
@[simp] theorem invalidateTree_nodeSel (b : Block) : (invalidateTree b).nodeSel = b.nodeSel := rfl
@[simp] theorem invalidateTree_nodeCount (b : Block) : (invalidateTree b).nodeCount = 0 := rfl
@[simp] theorem invalidateTree_root (b : Block) : (invalidateTree b).root = 0 := rfl
@[simp] theorem invalidateTree_node (b : Block) : (invalidateTree b).node = [] := rfl
@[simp] theorem invalidateTree_ctSel (b : Block) : (invalidateTree b).ctSel = b.ctSel := rfl
@[simp] theorem invalidateTree_ct (b : Block) : (invalidateTree b).ct = [] := rfl
@[simp] theorem invalidateTree_outLen (b : Block) : (invalidateTree b).outLen = b.outLen := rfl
@[simp] theorem invalidateTree_outSel (b : Block) : (invalidateTree b).outSel = b.outSel := rfl
@[simp] theorem invalidateTree_obuf (b : Block) : (invalidateTree b).obuf = b.obuf := rfl
@[simp] theorem invalidateTree_hdrEnd (b : Block) : (invalidateTree b).hdrEnd = b.hdrEnd := rfl
@[simp] theorem invalidateTree_pad (b : Block) : (invalidateTree b).pad = b.pad := rfl
@[simp] theorem invalidateTree_dbits (b : Block) : (invalidateTree b).dbits = b.dbits := rfl

/-! ## invalidateHeader -/

@[simp] theorem invalidateHeader_err (b : Block) : (invalidateHeader b).err = b.err := rfl
@[simp] theorem invalidateHeader_hdrValid (b : Block) : (invalidateHeader b).hdrValid = false := rfl
@[simp] theorem invalidateHeader_treeValid (b : Block) : (invalidateHeader b).treeValid = b.treeValid := rfl
@[simp] theorem invalidateHeader_ctValid (b : Block) : (invalidateHeader b).ctValid = b.ctValid := rfl
@[simp] theorem invalidateHeader_outValid (b : Block) : (invalidateHeader b).outValid = b.outValid := rfl
@[simp] theorem invalidateHeader_errCode (b : Block) : (invalidateHeader b).errCode = b.errCode := rfl
@[simp] theorem invalidateHeader_errInfo (b : Block) : (invalidateHeader b).errInfo = b.errInfo := rfl
@[simp] theorem invalidateHeader_inLen (b : Block) : (invalidateHeader b).inLen = b.inLen := rfl
@[simp] theorem invalidateHeader_inSel (b : Block) : (invalidateHeader b).inSel = b.inSel := rfl
@[simp] theorem invalidateHeader_ibuf (b : Block) : (invalidateHeader b).ibuf = b.ibuf := rfl
@[simp] theorem invalidateHeader_ftSym (b : Block) : (invalidateHeader b).ftSym = b.ftSym := rfl
@[simp] theorem invalidateHeader_ftCount (b : Block) : (invalidateHeader b).ftCount = b.ftCount := rfl
@[simp] theorem invalidateHeader_ftSel (b : Block) : (invalidateHeader b).ftSel = b.ftSel := rfl
@[simp] theorem invalidateHeader_ft (b : Block) : (invalidateHeader b).ft = b.ft := rfl
@[simp] theorem invalidateHeader_nodeSel (b : Block) : (invalidateHeader b).nodeSel = b.nodeSel := rfl
@[simp] theorem invalidateHeader_nodeCount (b : Block) : (invalidateHeader b).nodeCount = b.nodeCount := rfl
@[simp] theorem invalidateHeader_root (b : Block) : (invalidateHeader b).root = b.root := rfl
@[simp] theorem invalidateHeader_node (b : Block) : (invalidateHeader b).node = b.node := rfl
@[simp] theorem invalidateHeader_ctSel (b : Block) : (invalidateHeader b).ctSel = b.ctSel := rfl
@[simp] theorem invalidateHeader_ct (b : Block) : (invalidateHeader b).ct = b.ct := rfl
@[simp] theorem invalidateHeader_outLen (b : Block) : (invalidateHeader b).outLen = b.outLen := rfl
@[simp] theorem invalidateHeader_outSel (b : Block) : (invalidateHeader b).outSel = b.outSel := rfl
@[simp] theorem invalidateHeader_obuf (b : Block) : (invalidateHeader b).obuf = b.obuf := rfl
@[simp] theorem invalidateHeader_hdrEnd (b : Block) : (invalidateHeader b).hdrEnd = 0 := rfl
@[simp] theorem invalidateHeader_pad (b : Block) : (invalidateHeader b).pad = b.pad := rfl
@[simp] theorem invalidateHeader_dbits (b : Block) : (invalidateHeader b).dbits = b.dbits := rfl

/-! ## invalidateOutput -/

@[simp] theorem invalidateOutput_err (b : Block) : (invalidateOutput b).err = b.err := rfl
@[simp] theorem invalidateOutput_hdrValid (b : Block) : (invalidateOutput b).hdrValid = b.hdrValid := rfl
@[simp] theorem invalidateOutput_treeValid (b : Block) : (invalidateOutput b).treeValid = b.treeValid := rfl
@[simp] theorem invalidateOutput_ctValid (b : Block) : (invalidateOutput b).ctValid = b.ctValid := rfl
@[simp] theorem invalidateOutput_outValid (b : Block) : (invalidateOutput b).outValid = false := rfl
@[simp] theorem invalidateOutput_errCode (b : Block) : (invalidateOutput b).errCode = b.errCode := rfl
@[simp] theorem invalidateOutput_errInfo (b : Block) : (invalidateOutput b).errInfo = b.errInfo := rfl
@[simp] theorem invalidateOutput_inLen (b : Block) : (invalidateOutput b).inLen = b.inLen := rfl
@[simp] theorem invalidateOutput_inSel (b : Block) : (invalidateOutput b).inSel = b.inSel := rfl
@[simp] theorem invalidateOutput_ibuf (b : Block) : (invalidateOutput b).ibuf = b.ibuf := rfl
@[simp] theorem invalidateOutput_ftSym (b : Block) : (invalidateOutput b).ftSym = b.ftSym := rfl
@[simp] theorem invalidateOutput_ftCount (b : Block) : (invalidateOutput b).ftCount = b.ftCount := rfl
@[simp] theorem invalidateOutput_ftSel (b : Block) : (invalidateOutput b).ftSel = b.ftSel := rfl
@[simp] theorem invalidateOutput_ft (b : Block) : (invalidateOutput b).ft = b.ft := rfl
@[simp] theorem invalidateOutput_nodeSel (b : Block) : (invalidateOutput b).nodeSel = b.nodeSel := rfl
@[simp] theorem invalidateOutput_nodeCount (b : Block) : (invalidateOutput b).nodeCount = b.nodeCount := rfl
@[simp] theorem invalidateOutput_root (b : Block) : (invalidateOutput b).root = b.root := rfl
@[simp] theorem invalidateOutput_node (b : Block) : (invalidateOutput b).node = b.node := rfl
@[simp] theorem invalidateOutput_ctSel (b : Block) : (invalidateOutput b).ctSel = b.ctSel := rfl
@[simp] theorem invalidateOutput_ct (b : Block) : (invalidateOutput b).ct = b.ct := rfl
@[simp] theorem invalidateOutput_outLen (b : Block) : (invalidateOutput b).outLen = 0 := rfl
@[simp] theorem invalidateOutput_outSel (b : Block) : (invalidateOutput b).outSel = b.outSel := rfl
@[simp] theorem invalidateOutput_obuf (b : Block) : (invalidateOutput b).obuf = [] := rfl
@[simp] theorem invalidateOutput_hdrEnd (b : Block) : (invalidateOutput b).hdrEnd = b.hdrEnd := rfl
@[simp] theorem invalidateOutput_pad (b : Block) : (invalidateOutput b).pad = 0 := rfl
@[simp] theorem invalidateOutput_dbits (b : Block) : (invalidateOutput b).dbits = 0 := rfl

/-! ## storeRecords -/

@[simp] theorem storeRecords_err (recs : List FtRecord) (b : Block) : (storeRecords recs b).err = b.err := rfl
@[simp] theorem storeRecords_hdrValid (recs : List FtRecord) (b : Block) : (storeRecords recs b).hdrValid = b.hdrValid := rfl
@[simp] theorem storeRecords_treeValid (recs : List FtRecord) (b : Block) : (storeRecords recs b).treeValid = b.treeValid := rfl
@[simp] theorem storeRecords_ctValid (recs : List FtRecord) (b : Block) : (storeRecords recs b).ctValid = b.ctValid := rfl
@[simp] theorem storeRecords_outValid (recs : List FtRecord) (b : Block) : (storeRecords recs b).outValid = b.outValid := rfl
@[simp] theorem storeRecords_errCode (recs : List FtRecord) (b : Block) : (storeRecords recs b).errCode = b.errCode := rfl
@[simp] theorem storeRecords_errInfo (recs : List FtRecord) (b : Block) : (storeRecords recs b).errInfo = b.errInfo := rfl
@[simp] theorem storeRecords_inLen (recs : List FtRecord) (b : Block) : (storeRecords recs b).inLen = b.inLen := rfl
@[simp] theorem storeRecords_inSel (recs : List FtRecord) (b : Block) : (storeRecords recs b).inSel = b.inSel := rfl
@[simp] theorem storeRecords_ibuf (recs : List FtRecord) (b : Block) : (storeRecords recs b).ibuf = b.ibuf := rfl
@[simp] theorem storeRecords_ftSym (recs : List FtRecord) (b : Block) : (storeRecords recs b).ftSym = b.ftSym := rfl
@[simp] theorem storeRecords_ftCount (recs : List FtRecord) (b : Block) : (storeRecords recs b).ftCount = BitVec.ofNat 9 recs.length := rfl
@[simp] theorem storeRecords_ftSel (recs : List FtRecord) (b : Block) : (storeRecords recs b).ftSel = b.ftSel := rfl
@[simp] theorem storeRecords_ft (recs : List FtRecord) (b : Block) : (storeRecords recs b).ft = Cells.ofList blankRecord recs := rfl
@[simp] theorem storeRecords_nodeSel (recs : List FtRecord) (b : Block) : (storeRecords recs b).nodeSel = b.nodeSel := rfl
@[simp] theorem storeRecords_nodeCount (recs : List FtRecord) (b : Block) : (storeRecords recs b).nodeCount = b.nodeCount := rfl
@[simp] theorem storeRecords_root (recs : List FtRecord) (b : Block) : (storeRecords recs b).root = b.root := rfl
@[simp] theorem storeRecords_node (recs : List FtRecord) (b : Block) : (storeRecords recs b).node = b.node := rfl
@[simp] theorem storeRecords_ctSel (recs : List FtRecord) (b : Block) : (storeRecords recs b).ctSel = b.ctSel := rfl
@[simp] theorem storeRecords_ct (recs : List FtRecord) (b : Block) : (storeRecords recs b).ct = b.ct := rfl
@[simp] theorem storeRecords_outLen (recs : List FtRecord) (b : Block) : (storeRecords recs b).outLen = b.outLen := rfl
@[simp] theorem storeRecords_outSel (recs : List FtRecord) (b : Block) : (storeRecords recs b).outSel = b.outSel := rfl
@[simp] theorem storeRecords_obuf (recs : List FtRecord) (b : Block) : (storeRecords recs b).obuf = b.obuf := rfl
@[simp] theorem storeRecords_hdrEnd (recs : List FtRecord) (b : Block) : (storeRecords recs b).hdrEnd = b.hdrEnd := rfl
@[simp] theorem storeRecords_pad (recs : List FtRecord) (b : Block) : (storeRecords recs b).pad = b.pad := rfl
@[simp] theorem storeRecords_dbits (recs : List FtRecord) (b : Block) : (storeRecords recs b).dbits = b.dbits := rfl

/-! ## storeTree -/

@[simp] theorem storeTree_err (t : List Node × Nat) (b : Block) : (storeTree t b).err = b.err := rfl
@[simp] theorem storeTree_hdrValid (t : List Node × Nat) (b : Block) : (storeTree t b).hdrValid = b.hdrValid := rfl
@[simp] theorem storeTree_treeValid (t : List Node × Nat) (b : Block) : (storeTree t b).treeValid = true := rfl
@[simp] theorem storeTree_ctValid (t : List Node × Nat) (b : Block) : (storeTree t b).ctValid = false := rfl
@[simp] theorem storeTree_outValid (t : List Node × Nat) (b : Block) : (storeTree t b).outValid = b.outValid := rfl
@[simp] theorem storeTree_errCode (t : List Node × Nat) (b : Block) : (storeTree t b).errCode = b.errCode := rfl
@[simp] theorem storeTree_errInfo (t : List Node × Nat) (b : Block) : (storeTree t b).errInfo = b.errInfo := rfl
@[simp] theorem storeTree_inLen (t : List Node × Nat) (b : Block) : (storeTree t b).inLen = b.inLen := rfl
@[simp] theorem storeTree_inSel (t : List Node × Nat) (b : Block) : (storeTree t b).inSel = b.inSel := rfl
@[simp] theorem storeTree_ibuf (t : List Node × Nat) (b : Block) : (storeTree t b).ibuf = b.ibuf := rfl
@[simp] theorem storeTree_ftSym (t : List Node × Nat) (b : Block) : (storeTree t b).ftSym = b.ftSym := rfl
@[simp] theorem storeTree_ftCount (t : List Node × Nat) (b : Block) : (storeTree t b).ftCount = b.ftCount := rfl
@[simp] theorem storeTree_ftSel (t : List Node × Nat) (b : Block) : (storeTree t b).ftSel = b.ftSel := rfl
@[simp] theorem storeTree_ft (t : List Node × Nat) (b : Block) : (storeTree t b).ft = b.ft := rfl
@[simp] theorem storeTree_nodeSel (t : List Node × Nat) (b : Block) : (storeTree t b).nodeSel = b.nodeSel := rfl
@[simp] theorem storeTree_nodeCount (t : List Node × Nat) (b : Block) : (storeTree t b).nodeCount = BitVec.ofNat 9 t.1.length := rfl
@[simp] theorem storeTree_root (t : List Node × Nat) (b : Block) : (storeTree t b).root = BitVec.ofNat 9 t.2 := rfl
@[simp] theorem storeTree_node (t : List Node × Nat) (b : Block) : (storeTree t b).node = Cells.ofList blankNode t.1 := rfl
@[simp] theorem storeTree_ctSel (t : List Node × Nat) (b : Block) : (storeTree t b).ctSel = b.ctSel := rfl
@[simp] theorem storeTree_ct (t : List Node × Nat) (b : Block) : (storeTree t b).ct = [] := rfl
@[simp] theorem storeTree_outLen (t : List Node × Nat) (b : Block) : (storeTree t b).outLen = b.outLen := rfl
@[simp] theorem storeTree_outSel (t : List Node × Nat) (b : Block) : (storeTree t b).outSel = b.outSel := rfl
@[simp] theorem storeTree_obuf (t : List Node × Nat) (b : Block) : (storeTree t b).obuf = b.obuf := rfl
@[simp] theorem storeTree_hdrEnd (t : List Node × Nat) (b : Block) : (storeTree t b).hdrEnd = b.hdrEnd := rfl
@[simp] theorem storeTree_pad (t : List Node × Nat) (b : Block) : (storeTree t b).pad = b.pad := rfl
@[simp] theorem storeTree_dbits (t : List Node × Nat) (b : Block) : (storeTree t b).dbits = b.dbits := rfl

/-! ## storeContainer -/

@[simp] theorem storeContainer_err (b : Block) : (storeContainer b).err = b.err := rfl
@[simp] theorem storeContainer_hdrValid (b : Block) : (storeContainer b).hdrValid = b.hdrValid := rfl
@[simp] theorem storeContainer_treeValid (b : Block) : (storeContainer b).treeValid = b.treeValid := rfl
@[simp] theorem storeContainer_ctValid (b : Block) : (storeContainer b).ctValid = b.ctValid := rfl
@[simp] theorem storeContainer_outValid (b : Block) : (storeContainer b).outValid = true := rfl
@[simp] theorem storeContainer_errCode (b : Block) : (storeContainer b).errCode = b.errCode := rfl
@[simp] theorem storeContainer_errInfo (b : Block) : (storeContainer b).errInfo = b.errInfo := rfl
@[simp] theorem storeContainer_inLen (b : Block) : (storeContainer b).inLen = b.inLen := rfl
@[simp] theorem storeContainer_inSel (b : Block) : (storeContainer b).inSel = b.inSel := rfl
@[simp] theorem storeContainer_ibuf (b : Block) : (storeContainer b).ibuf = b.ibuf := rfl
@[simp] theorem storeContainer_ftSym (b : Block) : (storeContainer b).ftSym = b.ftSym := rfl
@[simp] theorem storeContainer_ftCount (b : Block) : (storeContainer b).ftCount = b.ftCount := rfl
@[simp] theorem storeContainer_ftSel (b : Block) : (storeContainer b).ftSel = b.ftSel := rfl
@[simp] theorem storeContainer_ft (b : Block) : (storeContainer b).ft = b.ft := rfl
@[simp] theorem storeContainer_nodeSel (b : Block) : (storeContainer b).nodeSel = b.nodeSel := rfl
@[simp] theorem storeContainer_nodeCount (b : Block) : (storeContainer b).nodeCount = b.nodeCount := rfl
@[simp] theorem storeContainer_root (b : Block) : (storeContainer b).root = b.root := rfl
@[simp] theorem storeContainer_node (b : Block) : (storeContainer b).node = b.node := rfl
@[simp] theorem storeContainer_ctSel (b : Block) : (storeContainer b).ctSel = b.ctSel := rfl
@[simp] theorem storeContainer_ct (b : Block) : (storeContainer b).ct = b.ct := rfl
@[simp] theorem storeContainer_outLen (b : Block) : (storeContainer b).outLen = BitVec.ofNat 32 (containerSize b) := rfl
@[simp] theorem storeContainer_outSel (b : Block) : (storeContainer b).outSel = b.outSel := rfl
@[simp] theorem storeContainer_obuf (b : Block) : (storeContainer b).obuf = containerMemory b := rfl
@[simp] theorem storeContainer_hdrEnd (b : Block) : (storeContainer b).hdrEnd = b.hdrEnd := rfl
@[simp] theorem storeContainer_pad (b : Block) : (storeContainer b).pad = BitVec.ofNat 3 (padOf (dataLength b)) := rfl
@[simp] theorem storeContainer_dbits (b : Block) : (storeContainer b).dbits = BitVec.ofNat 40 (dataLength b) := rfl

/-! ## dropTable -/

@[simp] theorem dropTable_err (b : Block) : (dropTable b).err = b.err := rfl
@[simp] theorem dropTable_hdrValid (b : Block) : (dropTable b).hdrValid = false := rfl
@[simp] theorem dropTable_treeValid (b : Block) : (dropTable b).treeValid = false := rfl
@[simp] theorem dropTable_ctValid (b : Block) : (dropTable b).ctValid = false := rfl
@[simp] theorem dropTable_outValid (b : Block) : (dropTable b).outValid = b.outValid := rfl
@[simp] theorem dropTable_errCode (b : Block) : (dropTable b).errCode = b.errCode := rfl
@[simp] theorem dropTable_errInfo (b : Block) : (dropTable b).errInfo = b.errInfo := rfl
@[simp] theorem dropTable_inLen (b : Block) : (dropTable b).inLen = b.inLen := rfl
@[simp] theorem dropTable_inSel (b : Block) : (dropTable b).inSel = b.inSel := rfl
@[simp] theorem dropTable_ibuf (b : Block) : (dropTable b).ibuf = b.ibuf := rfl
@[simp] theorem dropTable_ftSym (b : Block) : (dropTable b).ftSym = b.ftSym := rfl
@[simp] theorem dropTable_ftCount (b : Block) : (dropTable b).ftCount = 0 := rfl
@[simp] theorem dropTable_ftSel (b : Block) : (dropTable b).ftSel = b.ftSel := rfl
@[simp] theorem dropTable_ft (b : Block) : (dropTable b).ft = [] := rfl
@[simp] theorem dropTable_nodeSel (b : Block) : (dropTable b).nodeSel = b.nodeSel := rfl
@[simp] theorem dropTable_nodeCount (b : Block) : (dropTable b).nodeCount = 0 := rfl
@[simp] theorem dropTable_root (b : Block) : (dropTable b).root = 0 := rfl
@[simp] theorem dropTable_node (b : Block) : (dropTable b).node = [] := rfl
@[simp] theorem dropTable_ctSel (b : Block) : (dropTable b).ctSel = b.ctSel := rfl
@[simp] theorem dropTable_ct (b : Block) : (dropTable b).ct = [] := rfl
@[simp] theorem dropTable_outLen (b : Block) : (dropTable b).outLen = b.outLen := rfl
@[simp] theorem dropTable_outSel (b : Block) : (dropTable b).outSel = b.outSel := rfl
@[simp] theorem dropTable_obuf (b : Block) : (dropTable b).obuf = b.obuf := rfl
@[simp] theorem dropTable_hdrEnd (b : Block) : (dropTable b).hdrEnd = 0 := rfl
@[simp] theorem dropTable_pad (b : Block) : (dropTable b).pad = b.pad := rfl
@[simp] theorem dropTable_dbits (b : Block) : (dropTable b).dbits = b.dbits := rfl

/-! ## storeHeader -/

@[simp] theorem storeHeader_err (recs : List FtRecord) (b : Block) : (storeHeader recs b).err = b.err := rfl
@[simp] theorem storeHeader_hdrValid (recs : List FtRecord) (b : Block) : (storeHeader recs b).hdrValid = true := rfl
@[simp] theorem storeHeader_treeValid (recs : List FtRecord) (b : Block) : (storeHeader recs b).treeValid = b.treeValid := rfl
@[simp] theorem storeHeader_ctValid (recs : List FtRecord) (b : Block) : (storeHeader recs b).ctValid = b.ctValid := rfl
@[simp] theorem storeHeader_outValid (recs : List FtRecord) (b : Block) : (storeHeader recs b).outValid = b.outValid := rfl
@[simp] theorem storeHeader_errCode (recs : List FtRecord) (b : Block) : (storeHeader recs b).errCode = b.errCode := rfl
@[simp] theorem storeHeader_errInfo (recs : List FtRecord) (b : Block) : (storeHeader recs b).errInfo = b.errInfo := rfl
@[simp] theorem storeHeader_inLen (recs : List FtRecord) (b : Block) : (storeHeader recs b).inLen = b.inLen := rfl
@[simp] theorem storeHeader_inSel (recs : List FtRecord) (b : Block) : (storeHeader recs b).inSel = b.inSel := rfl
@[simp] theorem storeHeader_ibuf (recs : List FtRecord) (b : Block) : (storeHeader recs b).ibuf = b.ibuf := rfl
@[simp] theorem storeHeader_ftSym (recs : List FtRecord) (b : Block) : (storeHeader recs b).ftSym = b.ftSym := rfl
@[simp] theorem storeHeader_ftCount (recs : List FtRecord) (b : Block) : (storeHeader recs b).ftCount = BitVec.ofNat 9 recs.length := rfl
@[simp] theorem storeHeader_ftSel (recs : List FtRecord) (b : Block) : (storeHeader recs b).ftSel = b.ftSel := rfl
@[simp] theorem storeHeader_ft (recs : List FtRecord) (b : Block) : (storeHeader recs b).ft = Cells.ofList blankRecord recs := rfl
@[simp] theorem storeHeader_nodeSel (recs : List FtRecord) (b : Block) : (storeHeader recs b).nodeSel = b.nodeSel := rfl
@[simp] theorem storeHeader_nodeCount (recs : List FtRecord) (b : Block) : (storeHeader recs b).nodeCount = b.nodeCount := rfl
@[simp] theorem storeHeader_root (recs : List FtRecord) (b : Block) : (storeHeader recs b).root = b.root := rfl
@[simp] theorem storeHeader_node (recs : List FtRecord) (b : Block) : (storeHeader recs b).node = b.node := rfl
@[simp] theorem storeHeader_ctSel (recs : List FtRecord) (b : Block) : (storeHeader recs b).ctSel = b.ctSel := rfl
@[simp] theorem storeHeader_ct (recs : List FtRecord) (b : Block) : (storeHeader recs b).ct = b.ct := rfl
@[simp] theorem storeHeader_outLen (recs : List FtRecord) (b : Block) : (storeHeader recs b).outLen = b.outLen := rfl
@[simp] theorem storeHeader_outSel (recs : List FtRecord) (b : Block) : (storeHeader recs b).outSel = b.outSel := rfl
@[simp] theorem storeHeader_obuf (recs : List FtRecord) (b : Block) : (storeHeader recs b).obuf = b.obuf := rfl
@[simp] theorem storeHeader_hdrEnd (recs : List FtRecord) (b : Block) : (storeHeader recs b).hdrEnd = BitVec.ofNat 32 (headerEnd recs.length) := rfl
@[simp] theorem storeHeader_pad (recs : List FtRecord) (b : Block) : (storeHeader recs b).pad = b.pad := rfl
@[simp] theorem storeHeader_dbits (recs : List FtRecord) (b : Block) : (storeHeader recs b).dbits = b.dbits := rfl

/-! ## storeOutput -/

@[simp] theorem storeOutput_err (out : List Byte) (b : Block) : (storeOutput out b).err = b.err := rfl
@[simp] theorem storeOutput_hdrValid (out : List Byte) (b : Block) : (storeOutput out b).hdrValid = b.hdrValid := rfl
@[simp] theorem storeOutput_treeValid (out : List Byte) (b : Block) : (storeOutput out b).treeValid = b.treeValid := rfl
@[simp] theorem storeOutput_ctValid (out : List Byte) (b : Block) : (storeOutput out b).ctValid = b.ctValid := rfl
@[simp] theorem storeOutput_outValid (out : List Byte) (b : Block) : (storeOutput out b).outValid = true := rfl
@[simp] theorem storeOutput_errCode (out : List Byte) (b : Block) : (storeOutput out b).errCode = b.errCode := rfl
@[simp] theorem storeOutput_errInfo (out : List Byte) (b : Block) : (storeOutput out b).errInfo = b.errInfo := rfl
@[simp] theorem storeOutput_inLen (out : List Byte) (b : Block) : (storeOutput out b).inLen = b.inLen := rfl
@[simp] theorem storeOutput_inSel (out : List Byte) (b : Block) : (storeOutput out b).inSel = b.inSel := rfl
@[simp] theorem storeOutput_ibuf (out : List Byte) (b : Block) : (storeOutput out b).ibuf = b.ibuf := rfl
@[simp] theorem storeOutput_ftSym (out : List Byte) (b : Block) : (storeOutput out b).ftSym = b.ftSym := rfl
@[simp] theorem storeOutput_ftCount (out : List Byte) (b : Block) : (storeOutput out b).ftCount = b.ftCount := rfl
@[simp] theorem storeOutput_ftSel (out : List Byte) (b : Block) : (storeOutput out b).ftSel = b.ftSel := rfl
@[simp] theorem storeOutput_ft (out : List Byte) (b : Block) : (storeOutput out b).ft = b.ft := rfl
@[simp] theorem storeOutput_nodeSel (out : List Byte) (b : Block) : (storeOutput out b).nodeSel = b.nodeSel := rfl
@[simp] theorem storeOutput_nodeCount (out : List Byte) (b : Block) : (storeOutput out b).nodeCount = b.nodeCount := rfl
@[simp] theorem storeOutput_root (out : List Byte) (b : Block) : (storeOutput out b).root = b.root := rfl
@[simp] theorem storeOutput_node (out : List Byte) (b : Block) : (storeOutput out b).node = b.node := rfl
@[simp] theorem storeOutput_ctSel (out : List Byte) (b : Block) : (storeOutput out b).ctSel = b.ctSel := rfl
@[simp] theorem storeOutput_ct (out : List Byte) (b : Block) : (storeOutput out b).ct = b.ct := rfl
@[simp] theorem storeOutput_outLen (out : List Byte) (b : Block) : (storeOutput out b).outLen = BitVec.ofNat 32 out.length := rfl
@[simp] theorem storeOutput_outSel (out : List Byte) (b : Block) : (storeOutput out b).outSel = b.outSel := rfl
@[simp] theorem storeOutput_obuf (out : List Byte) (b : Block) : (storeOutput out b).obuf = Cells.ofList unwrittenByte out := rfl
@[simp] theorem storeOutput_hdrEnd (out : List Byte) (b : Block) : (storeOutput out b).hdrEnd = b.hdrEnd := rfl
@[simp] theorem storeOutput_pad (out : List Byte) (b : Block) : (storeOutput out b).pad = BitVec.ofNat 3 (padByte b) := rfl
@[simp] theorem storeOutput_dbits (out : List Byte) (b : Block) : (storeOutput out b).dbits = BitVec.ofNat 40 (dataBitCount b) := rfl

end Sys2Proof.Machine
end

