-- ==== Sys2Proof/Laws/Memory.lean ====
section
/-! SUPPORT. The laws of the memories: reading after writing, the canonical form and that every operation keeps it, slices,
and the byte and bit orders of 20_memory.md. -/

namespace Sys2Proof.Machine

section cells
variable {α : Type} [DecidableEq α] {d : α}

/-! ## The canonical form -/

theorem cells_wf_cons (b : Nat) (w : α) (m : Cells α) :
    Cells.wf d ((b, w) :: m) = true ↔ w ≠ d ∧ (∀ c ∈ m, b < c.1) ∧ Cells.wf d m = true := by
  induction m generalizing b w with
  | nil => simp [Cells.wf]
  | cons c m ih =>
    obtain ⟨c, x⟩ := c
    simp only [Cells.wf, Bool.and_eq_true, decide_eq_true_eq, List.mem_cons, forall_eq_or_imp]
    constructor
    · rintro ⟨⟨hw, hbc⟩, hm⟩
      exact ⟨hw, ⟨hbc, fun e he => lt_trans hbc (((ih c x).1 hm).2.1 e he)⟩, hm⟩
    · rintro ⟨hw, ⟨hbc, -⟩, hm⟩
      exact ⟨⟨hw, hbc⟩, hm⟩

@[simp] theorem cells_wf_nil : Cells.wf d ([] : Cells α) = true := rfl

omit [DecidableEq α] in
@[simp] theorem cells_read_nil (a : Nat) : Cells.read d ([] : Cells α) a = d := rfl

omit [DecidableEq α] in
/-- An index below every listed one is unlisted. -/
theorem cells_read_of_lt (m : Cells α) (a : Nat) (h : ∀ c ∈ m, a < c.1) : Cells.read d m a = d := by
  induction m with
  | nil => rfl
  | cons c m ih =>
    obtain ⟨c, x⟩ := c
    simp only [List.mem_cons, forall_eq_or_imp] at h
    simp only [Cells.read]
    rw [if_neg (by omega), ih h.2]

omit [DecidableEq α] in
/-- An index at or above a bound on the listed ones is unlisted. -/
theorem cells_read_of_below (m : Cells α) (n a : Nat) (h : Cells.below n m = true) (ha : n ≤ a) :
    Cells.read d m a = d := by
  induction m with
  | nil => rfl
  | cons c m ih =>
    obtain ⟨c, x⟩ := c
    simp only [Cells.below, List.all_cons, Bool.and_eq_true, decide_eq_true_eq] at h
    simp only [Cells.read]
    rw [if_neg (by omega), ih h.2]

/-- A cell written is the new one or an old one. -/
theorem cells_mem_write (m : Cells α) (a : Nat) (v : α) (c : Nat × α) (h : c ∈ Cells.write d m a v) :
    c = (a, v) ∨ c ∈ m := by
  induction m with
  | nil =>
    simp only [Cells.write] at h
    split at h <;> simp_all
  | cons e m ih =>
    obtain ⟨b, w⟩ := e
    simp only [Cells.write] at h
    split at h
    · split at h <;> simp_all
    · split at h
      · split at h
        · exact .inr (List.mem_cons_of_mem _ h)
        · rcases List.mem_cons.1 h with h | h
          · exact .inl h
          · exact .inr (List.mem_cons_of_mem _ h)
      · rcases List.mem_cons.1 h with h | h
        · exact .inr (h ▸ List.mem_cons_self)
        · exact (ih h).imp_right (List.mem_cons_of_mem _)

/-- Writing keeps the canonical form. -/
theorem cells_wf_write (m : Cells α) (a : Nat) (v : α) (h : Cells.wf d m = true) :
    Cells.wf d (Cells.write d m a v) = true := by
  induction m with
  | nil =>
    simp only [Cells.write]
    split <;> simp_all [cells_wf_cons]
  | cons e m ih =>
    obtain ⟨b, w⟩ := e
    have hc := (cells_wf_cons b w m).1 h
    simp only [Cells.write]
    split
    · rename_i hab
      split
      · exact h
      · rename_i hv
        refine (cells_wf_cons _ _ _).2 ⟨hv, ?_, h⟩
        simp only [List.mem_cons, forall_eq_or_imp]
        exact ⟨hab, fun c hcm => lt_trans hab (hc.2.1 c hcm)⟩
    · split
      · rename_i _ hab
        split
        · exact hc.2.2
        · rename_i hv
          exact (cells_wf_cons _ _ _).2 ⟨hv, hab ▸ hc.2.1, hc.2.2⟩
      · rename_i h1 h2
        refine (cells_wf_cons _ _ _).2 ⟨hc.1, ?_, ih hc.2.2⟩
        intro c hcm
        rcases cells_mem_write m a v c hcm with hc' | hc'
        · subst hc'; simp only; omega
        · exact hc.2.1 c hc'

theorem cells_below_write (m : Cells α) (n a : Nat) (v : α) (h : Cells.below n m = true) (ha : a < n) :
    Cells.below n (Cells.write d m a v) = true := by
  simp only [Cells.below, List.all_eq_true, decide_eq_true_eq] at *
  intro c hc
  rcases cells_mem_write m a v c hc with rfl | hc
  · exact ha
  · exact h c hc

omit [DecidableEq α] in
theorem cells_below_mono (m : Cells α) {n k : Nat} (hnk : n ≤ k) (h : Cells.below n m = true) :
    Cells.below k m = true := by
  simp only [Cells.below, List.all_eq_true, decide_eq_true_eq] at *
  exact fun c hc => lt_of_lt_of_le (h c hc) hnk

/-! ## Reading after writing -/

/-- A write leaves every other index alone. -/
theorem cells_read_write_other (m : Cells α) (a i : Nat) (v : α) (h : i ≠ a) :
    Cells.read d (Cells.write d m a v) i = Cells.read d m i := by
  induction m with
  | nil =>
    simp only [Cells.write]
    split
    · rfl
    · simp only [Cells.read]; rw [if_neg (by omega)]
  | cons e m ih =>
    obtain ⟨b, w⟩ := e
    simp only [Cells.write]
    split
    · split
      · rfl
      · simp only [Cells.read]; rw [if_neg (show ¬a = i by omega)]
    · split
      · rename_i hab
        subst hab
        split
        · simp only [Cells.read]; rw [if_neg (show ¬a = i by omega)]
        · simp only [Cells.read]; rw [if_neg (show ¬a = i by omega), if_neg (show ¬a = i by omega)]
      · simp only [Cells.read, ih]

/-- Reading where one has written gives what was written. -/
theorem cells_read_write_same (m : Cells α) (a : Nat) (v : α) (h : Cells.wf d m = true) :
    Cells.read d (Cells.write d m a v) a = v := by
  induction m with
  | nil =>
    simp only [Cells.write]
    split
    · rename_i hv; rw [hv]; rfl
    · simp [Cells.read]
  | cons e m ih =>
    obtain ⟨b, w⟩ := e
    have hc := (cells_wf_cons b w m).1 h
    simp only [Cells.write]
    split
    · rename_i hab
      split
      · rename_i hv
        rw [hv]
        refine cells_read_of_lt _ _ ?_
        simp only [List.mem_cons, forall_eq_or_imp]
        exact ⟨hab, fun c hcm => lt_trans hab (hc.2.1 c hcm)⟩
      · simp [Cells.read]
    · split
      · rename_i hab
        split
        · rename_i hv
          rw [hv, hab]
          exact cells_read_of_lt _ _ hc.2.1
        · simp [Cells.read]
      · rename_i h1 h2
        simp only [Cells.read]
        rw [if_neg (by omega), ih hc.2.2]

/-- The canonical form is one: memories in it that read alike are equal data. -/
theorem cells_ext (m k : Cells α) (hm : Cells.wf d m = true) (hk : Cells.wf d k = true)
    (h : ∀ a, Cells.read d m a = Cells.read d k a) : m = k := by
  induction m generalizing k with
  | nil =>
    cases k with
    | nil => rfl
    | cons e k =>
      obtain ⟨b, w⟩ := e
      have := h b
      simp only [Cells.read, if_pos] at this
      exact absurd this.symm ((cells_wf_cons b w k).1 hk).1
  | cons e m ih =>
    obtain ⟨b, w⟩ := e
    have hmc := (cells_wf_cons b w m).1 hm
    cases k with
    | nil =>
      have := h b
      simp only [Cells.read, if_pos] at this
      exact absurd this hmc.1
    | cons f k =>
      obtain ⟨c, x⟩ := f
      have hkc := (cells_wf_cons c x k).1 hk
      have hbc : b = c := by
        rcases Nat.lt_trichotomy b c with hlt | heq | hgt
        · have h1 := h b
          rw [cells_read_of_lt ((c, x) :: k) b (by
            simp only [List.mem_cons, forall_eq_or_imp]
            exact ⟨hlt, fun e he => lt_trans hlt (hkc.2.1 e he)⟩)] at h1
          simp only [Cells.read, if_pos] at h1
          exact absurd h1 hmc.1
        · exact heq
        · have h1 := h c
          rw [cells_read_of_lt ((b, w) :: m) c (by
            simp only [List.mem_cons, forall_eq_or_imp]
            exact ⟨hgt, fun e he => lt_trans hgt (hmc.2.1 e he)⟩)] at h1
          simp only [Cells.read, if_pos] at h1
          exact absurd h1.symm hkc.1
      subst hbc
      have hwx : w = x := by simpa [Cells.read] using h b
      subst hwx
      congr 1
      refine ih k hmc.2.2 hkc.2.2 fun a => ?_
      by_cases hab : b = a
      · subst hab
        rw [cells_read_of_lt m b hmc.2.1, cells_read_of_lt k b hkc.2.1]
      · have := h a
        simpa only [Cells.read, if_neg hab] using this

/-! ## Writing a list -/

theorem cells_wf_writeList (l : List α) (m : Cells α) (a : Nat) (h : Cells.wf d m = true) :
    Cells.wf d (Cells.writeList d m a l) = true := by
  induction l generalizing m a with
  | nil => exact h
  | cons v l ih => exact ih _ _ (cells_wf_write m a v h)

theorem cells_below_writeList (l : List α) (m : Cells α) (a n : Nat) (h : Cells.below n m = true)
    (hn : a + l.length ≤ n) : Cells.below n (Cells.writeList d m a l) = true := by
  induction l generalizing m a with
  | nil => exact h
  | cons v l ih =>
    simp only [List.length_cons] at hn
    exact ih _ _ (cells_below_write m n a v h (by omega)) (by omega)

/-- Reading after writing a list: inside it the list, elsewhere as before. -/
theorem cells_read_writeList (l : List α) (m : Cells α) (a i : Nat) (h : Cells.wf d m = true) :
    Cells.read d (Cells.writeList d m a l) i
      = if a ≤ i ∧ i < a + l.length then l.getD (i - a) d else Cells.read d m i := by
  induction l generalizing m a with
  | nil =>
    have : ¬(a ≤ i ∧ i < a + ([] : List α).length) := by simp
    rw [if_neg this]; rfl
  | cons v l ih =>
    rw [Cells.writeList, ih _ _ (cells_wf_write m a v h)]
    rcases Nat.lt_trichotomy i a with hlt | heq | hgt
    · rw [if_neg (by omega), if_neg (by omega), cells_read_write_other _ _ _ _ (by omega)]
    · subst heq
      rw [if_neg (by omega), if_pos (by simp), cells_read_write_same _ _ _ h]
      simp
    · rw [cells_read_write_other _ _ _ _ (by omega)]
      have hsub : i - a = (i - (a + 1)) + 1 := by omega
      simp only [List.length_cons]
      by_cases hin : i < a + (l.length + 1)
      · rw [if_pos (by omega), if_pos (by omega), hsub, List.getD_cons_succ]
      · rw [if_neg (by omega), if_neg (by omega)]

theorem cells_wf_ofList (l : List α) : Cells.wf d (Cells.ofList d l) = true := cells_wf_writeList l [] 0 rfl

theorem cells_below_ofList (l : List α) : Cells.below l.length (Cells.ofList d l) = true :=
  cells_below_writeList l [] 0 _ rfl (by omega)

theorem cells_read_ofList (l : List α) (i : Nat) : Cells.read d (Cells.ofList d l) i = l.getD i d := by
  rw [Cells.ofList, cells_read_writeList l [] 0 i rfl]
  by_cases h : i < l.length
  · rw [if_pos (by omega)]; simp
  · rw [if_neg (by omega), cells_read_nil, List.getD_eq_default _ _ (by omega)]

/-! ## Slices -/

omit [DecidableEq α] in
@[simp] theorem cells_slice_length (m : Cells α) (a n : Nat) : (Cells.slice d m a n).length = n := by
  simp [Cells.slice]

omit [DecidableEq α] in
theorem cells_slice_getElem (m : Cells α) (a n i : Nat) (h : i < (Cells.slice d m a n).length) :
    (Cells.slice d m a n)[i] = Cells.read d m (a + i) := by
  simp [Cells.slice]

omit [DecidableEq α] in
theorem cells_slice_congr (m k : Cells α) (a n : Nat) (h : ∀ i < n, Cells.read d m (a + i) = Cells.read d k (a + i)) :
    Cells.slice d m a n = Cells.slice d k a n := by
  simp only [Cells.slice]
  exact List.map_congr_left fun i hi => h i (List.mem_range.1 hi)

omit [DecidableEq α] in
theorem cells_slice_add (m : Cells α) (a n k : Nat) :
    Cells.slice d m a (n + k) = Cells.slice d m a n ++ Cells.slice d m (a + n) k := by
  simp only [Cells.slice, List.range_add, List.map_append, List.map_map]
  congr 1
  exact List.map_congr_left fun i _ => by simp only [Function.comp]; congr 1; omega

/-- The contents a list was written to are the list. -/
theorem cells_slice_writeList (l : List α) (m : Cells α) (a : Nat) (h : Cells.wf d m = true) :
    Cells.slice d (Cells.writeList d m a l) a l.length = l := by
  refine List.ext_getElem (by simp) fun i h1 h2 => ?_
  rw [cells_slice_getElem, cells_read_writeList l m a _ h, if_pos (by omega)]
  simp [h2]

theorem cells_slice_ofList (l : List α) : Cells.slice d (Cells.ofList d l) 0 l.length = l :=
  cells_slice_writeList l [] 0 rfl

/-- Writing above a slice leaves it alone. -/
theorem cells_slice_writeList_below (l : List α) (m : Cells α) (a b n : Nat) (h : Cells.wf d m = true) (hab : b + n ≤ a) :
    Cells.slice d (Cells.writeList d m a l) b n = Cells.slice d m b n :=
  cells_slice_congr _ _ _ _ fun i hi => by rw [cells_read_writeList l m a _ h, if_neg (by omega)]

/-- Appending to a memory appends to what it holds. -/
theorem cells_slice_append (l : List α) (m : Cells α) (n : Nat) (h : Cells.wf d m = true) :
    Cells.slice d (Cells.writeList d m n l) 0 (n + l.length) = Cells.slice d m 0 n ++ l := by
  rw [cells_slice_add, cells_slice_writeList_below l m n 0 n h (by omega), Nat.zero_add, cells_slice_writeList l m n h]

end cells

/-! ## Byte memories -/

theorem memory_wf_write (m : Memory) (a : Nat) (v : Byte) (h : Memory.wf m = true) :
    Memory.wf (Memory.write m a v) = true := cells_wf_write m a v h

theorem memory_wf_memWrite (m : Memory) (a n v : Nat) (h : Memory.wf m = true) :
    Memory.wf (memWrite m a n v) = true := cells_wf_writeList _ m a h

theorem memory_read_write_same (m : Memory) (a : Nat) (v : Byte) (h : Memory.wf m = true) :
    Memory.read (Memory.write m a v) a = v := cells_read_write_same m a v h

theorem memory_read_write_other (m : Memory) (a i : Nat) (v : Byte) (h : i ≠ a) :
    Memory.read (Memory.write m a v) i = Memory.read m i := cells_read_write_other m a i v h

@[simp] theorem bytesOf_length (n v : Nat) : (bytesOf n v).length = n := by
  induction n with
  | zero => rfl
  | succ n ih => simp [bytesOf, ih]

/-- Folding big-endian digits onto an accumulator. -/
theorem bigEndian_foldl (l : List Byte) (acc : Nat) :
    l.foldl (fun acc x => 256 * acc + x.toNat) acc = acc * 256 ^ l.length + bigEndian l := by
  induction l generalizing acc with
  | nil => simp [bigEndian]
  | cons x l ih =>
    simp only [bigEndian, List.foldl_cons, List.length_cons]
    rw [ih, ih (256 * 0 + x.toNat)]
    ring

/-- The bytes of a number, read back, are the number (20_memory.md R83). -/
theorem bigEndian_bytesOf (n v : Nat) : bigEndian (bytesOf n v) = v % 256 ^ n := by
  induction n with
  | zero => simp [bytesOf, bigEndian, Nat.mod_one]
  | succ n ih =>
    simp only [bytesOf, bigEndian, List.foldl_cons]
    rw [bigEndian_foldl, ih, bytesOf_length, BitVec.toNat_ofNat, Nat.mul_zero, Nat.zero_add]
    have h1 : v % 256 ^ (n + 1) = v % (256 ^ n * 256) := by rw [Nat.pow_succ]
    rw [h1, Nat.mod_mul]
    simp only [Nat.reducePow]
    ring

/-- MemRead after MemWrite at the same place gives the number written (00_scope.md R15). -/
theorem memRead_memWrite_same (m : Memory) (a n v : Nat) (h : Memory.wf m = true) :
    memRead (memWrite m a n v) a n = v % 256 ^ n := by
  have := cells_slice_writeList (d := unwrittenByte) (bytesOf n v) m a h
  rw [bytesOf_length] at this
  rw [memRead, memWrite, this, bigEndian_bytesOf]

/-! ## Bits and bytes -/

@[simp] theorem byteBits_length (v : Byte) : (byteBits v).length = 8 := rfl

theorem byteBits_byteOfBits (b7 b6 b5 b4 b3 b2 b1 b0 : Bool) :
    byteBits (byteOfBits b7 b6 b5 b4 b3 b2 b1 b0) = [b7, b6, b5, b4, b3, b2, b1, b0] := by
  revert b7 b6 b5 b4 b3 b2 b1 b0
  decide

@[simp] theorem expandBits_length (l : List Byte) : (expandBits l).length = 8 * l.length := by
  induction l with
  | nil => rfl
  | cons x l ih =>
    simp only [expandBits, List.flatMap_cons, List.length_append, byteBits_length, List.length_cons] at *
    omega

/-- Packing whole bytes and expanding them again gives the bits back (20_memory.md R85). -/
theorem expandBits_packBits (l : List Bool) (h : 8 ∣ l.length) : expandBits (packBits l) = l := by
  match l, h with
  | [], _ => rfl
  | b7 :: b6 :: b5 :: b4 :: b3 :: b2 :: b1 :: b0 :: rest, h =>
    have h' : 8 ∣ rest.length := by
      simp only [List.length_cons] at h
      omega
    simp only [packBits, expandBits, List.flatMap_cons, byteBits_byteOfBits]
    have := expandBits_packBits rest h'
    simp only [expandBits] at this
    rw [this]
    rfl
  | [_], h | [_, _], h | [_, _, _], h | [_, _, _, _], h | [_, _, _, _, _], h | [_, _, _, _, _, _], h
  | [_, _, _, _, _, _, _], h => simp at h

theorem packBits_length (l : List Bool) (h : 8 ∣ l.length) : (packBits l).length = l.length / 8 := by
  have h1 := congrArg List.length (expandBits_packBits l h)
  rw [expandBits_length] at h1
  omega

@[simp] theorem codeBits_length (e : CtEntry) : (codeBits e).length = e.len.toNat := by simp [codeBits]

theorem padOf_lt (n : Nat) : padOf n < 8 := Nat.mod_lt _ (by decide)

/-- The padding completes a byte (45_pack.md R223). -/
theorem add_padOf_mod (n : Nat) : (n + padOf n) % 8 = 0 := by
  simp only [padOf]
  omega

theorem dataBits_length (b : Block) : (dataBits b).length = dataLength b := by
  simp [dataBits, dataLength, List.length_flatMap]

end Sys2Proof.Machine
end

