-- ==== Sys2Proof/Laws/Commands.lean ====
section
/-! SUPPORT. For each shared operation and each command, once, everything it can do: proofs cite these and do not unfold
the operation again. -/

namespace Sys2Proof.Machine

/-! ## The order of extraction -/

/-- The order of extraction on numbers: by frequency, then by index (43_build.md R193). -/
theorem keyBefore_iff (arena : List Node) (i j : Nat) : keyBefore arena i j = true ↔
    (arenaAt arena i).freq.toNat < (arenaAt arena j).freq.toNat
      ∨ ((arenaAt arena i).freq.toNat = (arenaAt arena j).freq.toNat ∧ i < j) := by
  simp [keyBefore, BitVec.lt_def, BitVec.toNat_inj]

/-! ## The gate, the chain, the events -/

/-- While STATUS.ERR = 1 a gated write does nothing. -/
theorem gated_of_err (s : State) (rule : Config → Block → Result) (h : s.blk.err = true) : s.gated rule = s := by
  simp [State.gated, h]

/-- With STATUS.ERR = 0 a gated write is its rule. -/
theorem gated_of_clear (s : State) (rule : Config → Block → Result) (h : s.blk.err = false) :
    s.gated rule = s.withBlk (rule s.cfg s.blk).block := by
  simp [State.gated, h]

@[simp] theorem gated_cfg (s : State) (rule : Config → Block → Result) : (s.gated rule).cfg = s.cfg := by
  unfold State.gated
  split <;> rfl

@[simp] theorem gated_bus (s : State) (rule : Config → Block → Result) : (s.gated rule).bus = s.bus := by
  unfold State.gated
  split <;> rfl

/-- A gated write keeps what is true of the block and what its rule keeps. -/
theorem gated_blk_induction (s : State) (rule : Config → Block → Result) (P : Block → Prop) (h : P s.blk)
    (hr : s.blk.err = false → P (rule s.cfg s.blk).block) : P (s.gated rule).blk := by
  unfold State.gated
  split
  · exact h
  · rename_i he
    exact hr (by simpa using he)

@[simp] theorem andThen_ok (b : Block) (k : Block → Result) : (Result.ok b).andThen k = k b := rfl

@[simp] theorem andThen_faulted (b : Block) (k : Block → Result) : (Result.faulted b).andThen k = .faulted b := rfl

@[simp] theorem andThen_raise (f : FaultKind) (info : Nat) (b : Block) (k : Block → Result) :
    (raise f info b).andThen k = raise f info b := rfl

@[simp] theorem raise_block (f : FaultKind) (info : Nat) (b : Block) :
    (raise f info b).block = faultEntry f info b := rfl

/-- A chain of two rules keeps what each of them keeps. -/
theorem andThen_block_induction (r : Result) (k : Block → Result) (P : Block → Prop) (hr : P r.block)
    (hk : ∀ b, r = .ok b → P (k b).block) : P (r.andThen k).block := by
  cases r with
  | ok b => exact hk b rfl
  | faulted b => exact hr

/-- Everything a step can be: idle, a hard reset, or the decoded transaction on the machine with it taken off. -/
theorem step_cases (s : State) :
    (s.bus.pending = [] ∧ step s = .next s)
    ∨ (∃ rest, s.bus.pending = .hardReset :: rest ∧ step s = .next (hardReset (s.withPending rest)))
    ∨ (∃ t rest, s.bus.pending = .transaction t :: rest ∧ step s = exec (decode t) (s.withPending rest)) := by
  unfold step nextEvent
  match h : s.bus.pending with
  | [] => exact .inl ⟨rfl, rfl⟩
  | .hardReset :: rest => exact .inr (.inl ⟨rest, rfl, rfl⟩)
  | .transaction t :: rest => exact .inr (.inr ⟨t, rest, rfl, rfl⟩)

/-! ## The pushes -/

theorem inPush_cases (x : Byte) (c : Config) (b : Block) :
    (b.inLen = c.inCap ∧ inPush x c b = raise .inOverflow b.inLen.toNat b)
    ∨ (b.inLen ≠ c.inCap ∧ inPush x c b = .ok (invalidateHeader
        { b with ibuf := Memory.write b.ibuf b.inLen.toNat x, inLen := b.inLen + 1 })) := by
  unfold inPush
  split <;> simp_all

theorem ftPush_cases (count : Word) (c : Config) (b : Block) :
    (b.ftCount = 256 ∧ ftPush count c b = raise .ftOverflow 256 b)
    ∨ (b.ftCount ≠ 256 ∧ ftPush count c b = .ok (invalidateHeader (invalidateTree
        { b with ft := Cells.write blankRecord b.ft b.ftCount.toNat { sym := b.ftSym, cnt := count },
                 ftCount := b.ftCount + 1 }))) := by
  unfold ftPush
  split <;> simp_all

/-! ## The commands -/

theorem build_cases (c : Config) (b : Block) :
    (b.ftCount = 0 ∧ build c b = raise .emptyTable 0 (invalidateTree b))
    ∨ (∃ f k, b.ftCount ≠ 0 ∧ ftCheck b.records = some (f, k) ∧ build c b = raise f k (invalidateTree b))
    ∨ (b.ftCount ≠ 0 ∧ ftCheck b.records = none ∧ build c b = .ok (storeTree (buildTree b.records) b)) := by
  unfold build
  split
  · exact .inl ⟨‹_›, rfl⟩
  · rename_i h0
    split
    · rename_i f k h
      exact .inr (.inl ⟨f, k, h0, h, rfl⟩)
    · rename_i h
      exact .inr (.inr ⟨h0, h, rfl⟩)

theorem genc_cases (c : Config) (b : Block) :
    (b.treeValid = true ∧ genc c b = .ok { b with ct := codesOf b.node b.root, ctValid := true })
    ∨ (b.treeValid = false ∧ genc c b = raise .sequence 0x12 b) := by
  unfold genc gencReady
  split <;> simp_all

theorem packChecked_cases (c : Config) (b : Block) :
    (b.ftTotal.toNat ≠ b.inLen.toNat ∧ packChecked c b = raise .ftMismatch b.inLen.toNat b)
    ∨ (∃ i, b.ftTotal.toNat = b.inLen.toNat ∧ firstWithoutCode b = some i ∧ packChecked c b = raise .noCode i b)
    ∨ (b.ftTotal.toNat = b.inLen.toNat ∧ firstWithoutCode b = none ∧ c.outCap.toNat < containerSize b
        ∧ packChecked c b = raise .outOverflow (containerSize b) b)
    ∨ (b.ftTotal.toNat = b.inLen.toNat ∧ firstWithoutCode b = none ∧ containerSize b ≤ c.outCap.toNat
        ∧ packChecked c b = .ok (storeContainer b)) := by
  unfold packChecked
  split
  · exact .inl ⟨‹_›, rfl⟩
  · rename_i hm
    have hm : b.ftTotal.toNat = b.inLen.toNat := not_not.1 hm
    split
    · rename_i i h
      exact .inr (.inl ⟨i, hm, h, rfl⟩)
    · rename_i h
      split
      · rename_i hs
        exact .inr (.inr (.inl ⟨hm, h, hs, rfl⟩))
      · rename_i hs
        exact .inr (.inr (.inr ⟨hm, h, not_lt.1 hs, rfl⟩))

theorem pack_cases (c : Config) (b : Block) :
    (packReady b = true ∧ pack c b = packChecked c (invalidateOutput b))
    ∨ (packReady b = false ∧ pack c b = raise .sequence 0x13 b) := by
  unfold pack
  split <;> simp_all

theorem parse_cases (c : Config) (b : Block) :
    (b.inLen.toNat < 2 ∧ parse c b = raise .hdrShort b.inLen.toNat (dropTable b))
    ∨ (2 ≤ b.inLen.toNat ∧ 256 < headerCount b ∧ parse c b = raise .hdrCount (headerCount b) (dropTable b))
    ∨ (2 ≤ b.inLen.toNat ∧ headerCount b ≤ 256 ∧ b.inLen.toNat < headerEnd (headerCount b)
        ∧ parse c b = raise .hdrShort b.inLen.toNat (dropTable b))
    ∨ (∃ f k, 2 ≤ b.inLen.toNat ∧ headerCount b ≤ 256 ∧ headerEnd (headerCount b) ≤ b.inLen.toNat
        ∧ ftCheck (headerRecords b) = some (f, k) ∧ parse c b = raise f k (dropTable b))
    ∨ (2 ≤ b.inLen.toNat ∧ headerCount b ≤ 256 ∧ headerEnd (headerCount b) ≤ b.inLen.toNat
        ∧ ftCheck (headerRecords b) = none ∧ parse c b = .ok (storeHeader (headerRecords b) (dropTable b))) := by
  have hc : headerCount (dropTable b) = headerCount b := rfl
  have hr : headerRecords (dropTable b) = headerRecords b := rfl
  unfold parse parseDropped
  rw [hc, hr, dropTable_inLen]
  split
  · exact .inl ⟨‹_›, rfl⟩
  · rename_i h2
    have h2 := not_lt.1 h2
    split
    · rename_i hn
      exact .inr (.inl ⟨h2, hn, rfl⟩)
    · rename_i hn
      have hn : headerCount b ≤ 256 := not_lt.1 hn
      split
      · rename_i he
        exact .inr (.inr (.inl ⟨h2, hn, he, rfl⟩))
      · rename_i he
        have he := not_lt.1 he
        split
        · rename_i f k h
          exact .inr (.inr (.inr (.inl ⟨f, k, h2, hn, he, h, rfl⟩)))
        · rename_i h
          exact .inr (.inr (.inr (.inr ⟨h2, hn, he, h, rfl⟩)))

theorem finishDecode_cases (out : List Byte) (b : Block) :
    (out.length ≠ b.ftTotal.toNat ∧ finishDecode out b = raise .lenMismatch out.length b)
    ∨ (out.length = b.ftTotal.toNat ∧ finishDecode out b = .ok (storeOutput out b)) := by
  unfold finishDecode
  split <;> simp_all

theorem decodeStream_cases (c : Config) (b : Block) :
    (b.ftCount = 0 ∧ 0 < dataBitCount b ∧ decodeStream c b = raise .truncated 0 b)
    ∨ (b.ftCount = 0 ∧ dataBitCount b = 0 ∧ decodeStream c b = finishDecode [] b)
    ∨ (∃ out, b.ftCount ≠ 0 ∧ walkBits b.node b.root c.outCap.toNat (streamBits b) 0 b.root 0 [] = .full out
        ∧ decodeStream c b = raise .outOverflow out b)
    ∨ (∃ n start out, b.ftCount ≠ 0
        ∧ walkBits b.node b.root c.outCap.toNat (streamBits b) 0 b.root 0 [] = .finished n start out
        ∧ n ≠ b.root ∧ decodeStream c b = raise .truncated start b)
    ∨ (∃ start out, b.ftCount ≠ 0
        ∧ walkBits b.node b.root c.outCap.toNat (streamBits b) 0 b.root 0 [] = .finished b.root start out
        ∧ decodeStream c b = finishDecode out b) := by
  unfold decodeStream
  split
  · rename_i h0
    split
    · exact .inl ⟨h0, ‹_›, rfl⟩
    · rename_i hd
      exact .inr (.inl ⟨h0, by omega, rfl⟩)
  · rename_i h0
    split
    · rename_i out h
      exact .inr (.inr (.inl ⟨out, h0, h, rfl⟩))
    · rename_i n start out h
      split
      · rename_i hn
        exact .inr (.inr (.inr (.inl ⟨n, start, out, h0, h, hn, rfl⟩)))
      · rename_i hn
        have hn : n = b.root := not_not.1 hn
        subst hn
        exact .inr (.inr (.inr (.inr ⟨start, out, h0, h, rfl⟩)))

theorem decodeChecked_cases (c : Config) (b : Block) :
    (b.inLen.toNat < b.hdrEnd.toNat + 1 ∧ decodeChecked c b = raise .padMissing b.inLen.toNat b)
    ∨ (b.hdrEnd.toNat + 1 ≤ b.inLen.toNat ∧ 7 < padByte b ∧ decodeChecked c b = raise .padRange (padByte b) b)
    ∨ (b.hdrEnd.toNat + 1 ≤ b.inLen.toNat ∧ padByte b ≤ 7 ∧ bitsAfterPad b < padByte b
        ∧ decodeChecked c b = raise .padExceeds (padByte b) b)
    ∨ (b.hdrEnd.toNat + 1 ≤ b.inLen.toNat ∧ padByte b ≤ 7 ∧ padByte b ≤ bitsAfterPad b
        ∧ decodeChecked c b = decodeStream c b) := by
  unfold decodeChecked
  split
  · exact .inl ⟨‹_›, rfl⟩
  · rename_i h1
    have h1 := not_lt.1 h1
    split
    · exact .inr (.inl ⟨h1, ‹_›, rfl⟩)
    · rename_i h2
      split
      · rename_i h3
        exact .inr (.inr (.inl ⟨h1, not_lt.1 h2, h3, rfl⟩))
      · rename_i h3
        exact .inr (.inr (.inr ⟨h1, not_lt.1 h2, not_lt.1 h3, rfl⟩))

theorem decodeContainer_cases (c : Config) (b : Block) :
    (decodeReady b = true ∧ decodeContainer c b = decodeChecked c (invalidateOutput b))
    ∨ (decodeReady b = false ∧ decodeContainer c b = raise .sequence 0x15 b) := by
  unfold decodeContainer
  split <;> simp_all

/-! ## Views that an update leaves alone -/

@[simp] theorem faultEntry_input (f : FaultKind) (info : Nat) (b : Block) : (faultEntry f info b).input = b.input := rfl
@[simp] theorem faultEntry_records (f : FaultKind) (info : Nat) (b : Block) :
    (faultEntry f info b).records = b.records := rfl
@[simp] theorem faultEntry_output (f : FaultKind) (info : Nat) (b : Block) :
    (faultEntry f info b).output = b.output := rfl
@[simp] theorem invalidateTree_input (b : Block) : (invalidateTree b).input = b.input := rfl
@[simp] theorem invalidateTree_records (b : Block) : (invalidateTree b).records = b.records := rfl
@[simp] theorem invalidateTree_output (b : Block) : (invalidateTree b).output = b.output := rfl
@[simp] theorem invalidateHeader_input (b : Block) : (invalidateHeader b).input = b.input := rfl
@[simp] theorem invalidateHeader_records (b : Block) : (invalidateHeader b).records = b.records := rfl
@[simp] theorem invalidateHeader_output (b : Block) : (invalidateHeader b).output = b.output := rfl
@[simp] theorem invalidateOutput_input (b : Block) : (invalidateOutput b).input = b.input := rfl
@[simp] theorem invalidateOutput_records (b : Block) : (invalidateOutput b).records = b.records := rfl
@[simp] theorem invalidateOutput_output (b : Block) : (invalidateOutput b).output = [] := rfl
@[simp] theorem storeTree_input (t : List Node × Nat) (b : Block) : (storeTree t b).input = b.input := rfl
@[simp] theorem storeTree_records (t : List Node × Nat) (b : Block) : (storeTree t b).records = b.records := rfl
@[simp] theorem storeTree_output (t : List Node × Nat) (b : Block) : (storeTree t b).output = b.output := rfl
@[simp] theorem storeRecords_input (recs : List FtRecord) (b : Block) : (storeRecords recs b).input = b.input := rfl
@[simp] theorem storeHeader_input (recs : List FtRecord) (b : Block) : (storeHeader recs b).input = b.input := rfl
@[simp] theorem dropTable_input (b : Block) : (dropTable b).input = b.input := rfl

@[simp] theorem input_length (b : Block) : b.input.length = b.inLen.toNat := by simp [Block.input]

@[simp] theorem output_length (b : Block) : b.output.length = b.outLen.toNat := by simp [Block.output]

@[simp] theorem records_length (b : Block) : b.records.length = b.ftCount.toNat := by simp [Block.records]

/-- Records stored whole are read back, up to the table's capacity. -/
theorem storeRecords_records (recs : List FtRecord) (b : Block) (h : recs.length ≤ 256) :
    (storeRecords recs b).records = recs := by
  have : (BitVec.ofNat 9 recs.length).toNat = recs.length := by
    rw [BitVec.toNat_ofNat]
    exact Nat.mod_eq_of_lt (by omega)
  simp only [Block.records, storeRecords_ft, storeRecords_ftCount, this]
  exact cells_slice_ofList recs

/-- A parsed table is read back, up to the table's capacity. -/
theorem storeHeader_records (recs : List FtRecord) (b : Block) (h : recs.length ≤ 256) :
    (storeHeader recs b).records = recs := storeRecords_records recs b h

/-! ## FTCheck -/

/-- FTCheck from an index on finds nothing exactly when no count is 0, no symbol repeats and none was seen before. -/
theorem ftCheckFrom_none (recs : List FtRecord) (k : Nat) (seen : List Byte) :
    ftCheckFrom k seen recs = none ↔
      (∀ r ∈ recs, r.cnt ≠ 0) ∧ (recs.map FtRecord.sym).Nodup ∧ ∀ r ∈ recs, r.sym ∉ seen := by
  induction recs generalizing k seen with
  | nil => simp [ftCheckFrom]
  | cons r recs ih =>
    simp only [ftCheckFrom, List.mem_cons, forall_eq_or_imp, List.map_cons, List.nodup_cons, List.mem_map, not_exists,
      not_and]
    by_cases hz : r.cnt = 0
    · simp [hz]
    · rw [if_neg hz]
      by_cases hs : r.sym ∈ seen
      · simp [hs]
      · rw [if_neg (by simpa using hs), ih]
        simp only [List.mem_cons, not_or]
        constructor
        · rintro ⟨h1, h2, h3⟩
          exact ⟨⟨hz, h1⟩, ⟨fun x hx => (h3 x hx).1, h2⟩, hs, fun x hx => (h3 x hx).2⟩
        · rintro ⟨⟨-, h1⟩, ⟨h2, h3⟩, -, h4⟩
          exact ⟨h1, h3, fun x hx => ⟨h2 x hx, h4 x hx⟩⟩

/-- FTCheck finds nothing exactly in a well-formed table (10_state.md R46). -/
theorem ftCheck_none (recs : List FtRecord) : ftCheck recs = none ↔ tableWf recs := by
  simp [ftCheck, ftCheckFrom_none, tableWf]

/-- A table without repeated symbols has at most 256 records. -/
theorem tableWf_length (recs : List FtRecord) (h : tableWf recs) : recs.length ≤ 256 := by
  have h1 : (recs.map FtRecord.sym).length ≤ Fintype.card (Fin 256) := by
    have h2 : ((recs.map FtRecord.sym).map BitVec.toFin).Nodup :=
      h.2.map (fun a b hab => BitVec.eq_of_toNat_eq (congrArg Fin.val hab))
    simpa using h2.length_le_card
  simpa using h1

end Sys2Proof.Machine
end

