-- ==== Sys2Proof/Laws/Decode.lean ====
section
/-! SUPPORT. The fields of the words the encoder writes, and the words a mask of W and ADDR takes. -/

namespace Sys2Proof

@[simp] theorem isWrite_writeWord (a : RegAddr) (d : Word) : isWrite (writeWord a d) = true := by
  simp only [isWrite, writeWord, BitVec.getLsbD_append]
  rfl

@[simp] theorem isWrite_readWord (a : RegAddr) : isWrite (readWord a) = false := by
  simp only [isWrite, readWord, BitVec.getLsbD_append]
  rfl

@[simp] theorem addrOf_writeWord (a : RegAddr) (d : Word) : addrOf (writeWord a d) = a := by
  apply BitVec.eq_of_getLsbD_eq
  intro i hi
  simp only [addrOf, writeWord, BitVec.getLsbD_extractLsb', BitVec.getLsbD_append, hi, decide_true, Bool.true_and]
  rw [if_neg (by omega)]
  simp [hi]

@[simp] theorem addrOf_readWord (a : RegAddr) : addrOf (readWord a) = a := by
  apply BitVec.eq_of_getLsbD_eq
  intro i hi
  simp only [addrOf, readWord, BitVec.getLsbD_extractLsb', BitVec.getLsbD_append, hi, decide_true, Bool.true_and]
  rw [if_neg (by omega)]
  simp [hi]

@[simp] theorem wdataOf_writeWord (a : RegAddr) (d : Word) : wdataOf (writeWord a d) = d := by
  apply BitVec.eq_of_getLsbD_eq
  intro i hi
  simp only [wdataOf, writeWord, BitVec.getLsbD_extractLsb', BitVec.getLsbD_append, hi, decide_true, Bool.true_and]
  rw [if_pos (by omega)]
  simp

@[simp] theorem byteOf_setWidth (x : Byte) : byteOf (x.setWidth 32) = x := by
  apply BitVec.eq_of_getLsbD_eq
  intro i hi
  simp [byteOf, hi]
  omega

@[simp] theorem indexOf_setWidth (x : NodeIndex) : indexOf (x.setWidth 32) = x := by
  apply BitVec.eq_of_getLsbD_eq
  intro i hi
  simp [indexOf, hi]
  omega

/-- The mask of W and ADDR keeps W and ADDR of a write. -/
theorem writeWord_and_addrMask (a : RegAddr) (d : Word) : writeWord a d &&& 0x1FF00000000#41 = writeWord a 0 := by
  apply BitVec.eq_of_getLsbD_eq
  intro i hi
  simp only [writeWord, BitVec.getLsbD_and, BitVec.getLsbD_append]
  by_cases h : i < 32
  · simp only [h, if_pos]
    have : (0x1FF00000000#41 : Transaction).getLsbD i = false := by
      interval_cases i <;> rfl
    simp [this]
  · simp only [h, if_neg, not_false_eq_true]
    have : (0x1FF00000000#41 : Transaction).getLsbD i = true := by
      interval_cases i <;> rfl
    simp [this]

/-- The mask of W alone keeps W of a write. -/
theorem writeWord_and_wMask (a : RegAddr) (d : Word) : writeWord a d &&& 0x10000000000#41 = 0x10000000000#41 := by
  apply BitVec.eq_of_getLsbD_eq
  intro i hi
  simp only [writeWord, BitVec.getLsbD_and, BitVec.getLsbD_append]
  by_cases h : i = 40
  · subst h; simp
  · have : (0x10000000000#41 : Transaction).getLsbD i = false := by
      interval_cases i <;> first | rfl | omega
    simp [this]

/-- The mask of W alone keeps W of a read. -/
theorem readWord_and_wMask (a : RegAddr) : readWord a &&& 0x10000000000#41 = 0#41 := by
  apply BitVec.eq_of_getLsbD_eq
  intro i hi
  simp only [readWord, BitVec.getLsbD_and, BitVec.getLsbD_append]
  by_cases h : i = 40
  · subst h; simp
  · have : (0x10000000000#41 : Transaction).getLsbD i = false := by
      interval_cases i <;> first | rfl | omega
    simp [this]

/-- A transaction word is its three fields (30_encoding.md R110). -/
theorem transaction_fields (t : Transaction) : t = BitVec.ofBool (isWrite t) ++ addrOf t ++ wdataOf t := by
  apply BitVec.eq_of_getLsbD_eq
  intro i hi
  simp only [BitVec.getLsbD_append, wdataOf, addrOf, BitVec.getLsbD_extractLsb']
  split
  · simp [*]
  · split
    · rename_i h1 h2
      have h3 : 32 + (i - 32) = i := by omega
      simp [h2, h3]
    · have h3 : i = 40 := by omega
      subst h3
      simp [isWrite]

end Sys2Proof
end

