-- ==== Sys2Proof/Laws/PerInstr.lean ====
section
/-! SUPPORT. Statements about every instruction as syntax, proved once per constructor. -/

namespace Sys2Proof.Laws.EncodeUnderRow

/-- The encoding of a well-formed instruction lies under the row of spec/opcode_table.json that the instruction stands
for: (T and mask) = pattern (30_encoding.md R118). -/
def Statement (i : Instr) : Prop :=
  i.wf = true → ∃ r ∈ opcodeTable, r.mnemonic = i.mnemonic ∧ r.takes (encode i) = true

/-- Row `n` of the table takes the encoding. -/
theorem of_row (i : Instr) (n : Fin 62) (r : OpcodeRow) (hr : opcodeTable[n.val]? = some r)
    (hm : r.mnemonic = i.mnemonic) (ht : r.takes (encode i) = true) : Statement i :=
  fun _ => ⟨r, List.mem_of_getElem? hr, hm, ht⟩

/-- A row that examines W and ADDR takes every write to its address. -/
theorem takes_write (m : String) (a : RegAddr) (d : Word) (p : Transaction) (h : writeWord a 0 = p) :
    (OpcodeRow.mk m p 0x1FF00000000).takes (writeWord a d) = true := by
  simp only [OpcodeRow.takes, beq_iff_eq]
  rw [← h]
  exact writeWord_and_addrMask a d

theorem nop : Statement .nop :=
  of_row _ 0 ⟨"NOP", 0x10000000000, 0x1FFFFFFFFFF⟩ rfl rfl rfl

theorem srst : Statement .srst :=
  of_row _ 1 ⟨"SRST", 0x10000000001, 0x1FFFFFFFFFF⟩ rfl rfl rfl

theorem iclr : Statement .iclr :=
  of_row _ 2 ⟨"ICLR", 0x10000000002, 0x1FFFFFFFFFF⟩ rfl rfl rfl

theorem fclr : Statement .fclr :=
  of_row _ 3 ⟨"FCLR", 0x10000000003, 0x1FFFFFFFFFF⟩ rfl rfl rfl

theorem freq : Statement .freq :=
  of_row _ 4 ⟨"FREQ", 0x10000000010, 0x1FFFFFFFFFF⟩ rfl rfl rfl

theorem build : Statement .build :=
  of_row _ 5 ⟨"BUILD", 0x10000000011, 0x1FFFFFFFFFF⟩ rfl rfl rfl

theorem genc : Statement .genc :=
  of_row _ 6 ⟨"GENC", 0x10000000012, 0x1FFFFFFFFFF⟩ rfl rfl rfl

theorem pack : Statement .pack :=
  of_row _ 7 ⟨"PACK", 0x10000000013, 0x1FFFFFFFFFF⟩ rfl rfl rfl

theorem parse : Statement .parse :=
  of_row _ 8 ⟨"PARSE", 0x10000000014, 0x1FFFFFFFFFF⟩ rfl rfl rfl

theorem decode : Statement .decode :=
  of_row _ 9 ⟨"DECODE", 0x10000000015, 0x1FFFFFFFFFF⟩ rfl rfl rfl

theorem compress : Statement .compress :=
  of_row _ 10 ⟨"COMPRESS", 0x10000000020, 0x1FFFFFFFFFF⟩ rfl rfl rfl

theorem decompress : Statement .decompress :=
  of_row _ 11 ⟨"DECOMPRESS", 0x10000000021, 0x1FFFFFFFFFF⟩ rfl rfl rfl

theorem cmdIllegal (word : Word) : Statement (.cmdIllegal word) :=
  of_row _ 12 ⟨"CMD.ILLEGAL", 0x10000000000, 0x1FF00000000⟩ rfl rfl (takes_write _ _ _ _ rfl)

theorem wrInPush (b : Byte) : Statement (.wrInPush b) :=
  of_row _ 13 ⟨"WR.IN_PUSH", 0x10800000000, 0x1FF00000000⟩ rfl rfl (takes_write _ _ _ _ rfl)

theorem wrInSel (index : Word) : Statement (.wrInSel index) :=
  of_row _ 14 ⟨"WR.IN_SEL", 0x10A00000000, 0x1FF00000000⟩ rfl rfl (takes_write _ _ _ _ rfl)

theorem wrFtSym (sym : Byte) : Statement (.wrFtSym sym) :=
  of_row _ 15 ⟨"WR.FT_SYM", 0x11000000000, 0x1FF00000000⟩ rfl rfl (takes_write _ _ _ _ rfl)

theorem wrFtPush (count : Word) : Statement (.wrFtPush count) :=
  of_row _ 16 ⟨"WR.FT_PUSH", 0x11100000000, 0x1FF00000000⟩ rfl rfl (takes_write _ _ _ _ rfl)

theorem wrFtSel (index : Byte) : Statement (.wrFtSel index) :=
  of_row _ 17 ⟨"WR.FT_SEL", 0x11300000000, 0x1FF00000000⟩ rfl rfl (takes_write _ _ _ _ rfl)

theorem wrNodeSel (index : NodeIndex) : Statement (.wrNodeSel index) :=
  of_row _ 18 ⟨"WR.NODE_SEL", 0x11800000000, 0x1FF00000000⟩ rfl rfl (takes_write _ _ _ _ rfl)

theorem wrCtSel (sym : Byte) : Statement (.wrCtSel sym) :=
  of_row _ 19 ⟨"WR.CT_SEL", 0x12000000000, 0x1FF00000000⟩ rfl rfl (takes_write _ _ _ _ rfl)

theorem wrOutSel (index : Word) : Statement (.wrOutSel index) :=
  of_row _ 20 ⟨"WR.OUT_SEL", 0x13100000000, 0x1FF00000000⟩ rfl rfl (takes_write _ _ _ _ rfl)

theorem rdStatus : Statement .rdStatus :=
  of_row _ 21 ⟨"RD.STATUS", 0x00100000000, 0x1FF00000000⟩ rfl rfl rfl

theorem rdErr : Statement .rdErr :=
  of_row _ 22 ⟨"RD.ERR", 0x00200000000, 0x1FF00000000⟩ rfl rfl rfl

theorem rdErrInfo : Statement .rdErrInfo :=
  of_row _ 23 ⟨"RD.ERR_INFO", 0x00300000000, 0x1FF00000000⟩ rfl rfl rfl

theorem rdId : Statement .rdId :=
  of_row _ 24 ⟨"RD.ID", 0x00400000000, 0x1FF00000000⟩ rfl rfl rfl

theorem rdCapIn : Statement .rdCapIn :=
  of_row _ 25 ⟨"RD.CAP_IN", 0x00500000000, 0x1FF00000000⟩ rfl rfl rfl

theorem rdCapOut : Statement .rdCapOut :=
  of_row _ 26 ⟨"RD.CAP_OUT", 0x00600000000, 0x1FF00000000⟩ rfl rfl rfl

theorem rdInLen : Statement .rdInLen :=
  of_row _ 27 ⟨"RD.IN_LEN", 0x00900000000, 0x1FF00000000⟩ rfl rfl rfl

theorem rdInSel : Statement .rdInSel :=
  of_row _ 28 ⟨"RD.IN_SEL", 0x00A00000000, 0x1FF00000000⟩ rfl rfl rfl

theorem rdInData : Statement .rdInData :=
  of_row _ 29 ⟨"RD.IN_DATA", 0x00B00000000, 0x1FF00000000⟩ rfl rfl rfl

theorem rdFtSym : Statement .rdFtSym :=
  of_row _ 30 ⟨"RD.FT_SYM", 0x01000000000, 0x1FF00000000⟩ rfl rfl rfl

theorem rdFtCount : Statement .rdFtCount :=
  of_row _ 31 ⟨"RD.FT_COUNT", 0x01200000000, 0x1FF00000000⟩ rfl rfl rfl

theorem rdFtSel : Statement .rdFtSel :=
  of_row _ 32 ⟨"RD.FT_SEL", 0x01300000000, 0x1FF00000000⟩ rfl rfl rfl

theorem rdFtRsym : Statement .rdFtRsym :=
  of_row _ 33 ⟨"RD.FT_RSYM", 0x01400000000, 0x1FF00000000⟩ rfl rfl rfl

theorem rdFtRcnt : Statement .rdFtRcnt :=
  of_row _ 34 ⟨"RD.FT_RCNT", 0x01500000000, 0x1FF00000000⟩ rfl rfl rfl

theorem rdFtTotalLo : Statement .rdFtTotalLo :=
  of_row _ 35 ⟨"RD.FT_TOTAL_LO", 0x01600000000, 0x1FF00000000⟩ rfl rfl rfl

theorem rdFtTotalHi : Statement .rdFtTotalHi :=
  of_row _ 36 ⟨"RD.FT_TOTAL_HI", 0x01700000000, 0x1FF00000000⟩ rfl rfl rfl

theorem rdNodeSel : Statement .rdNodeSel :=
  of_row _ 37 ⟨"RD.NODE_SEL", 0x01800000000, 0x1FF00000000⟩ rfl rfl rfl

theorem rdNodeInfo : Statement .rdNodeInfo :=
  of_row _ 38 ⟨"RD.NODE_INFO", 0x01900000000, 0x1FF00000000⟩ rfl rfl rfl

theorem rdNodeFreqLo : Statement .rdNodeFreqLo :=
  of_row _ 39 ⟨"RD.NODE_FREQ_LO", 0x01A00000000, 0x1FF00000000⟩ rfl rfl rfl

theorem rdNodeFreqHi : Statement .rdNodeFreqHi :=
  of_row _ 40 ⟨"RD.NODE_FREQ_HI", 0x01B00000000, 0x1FF00000000⟩ rfl rfl rfl

theorem rdNodeCount : Statement .rdNodeCount :=
  of_row _ 41 ⟨"RD.NODE_COUNT", 0x01C00000000, 0x1FF00000000⟩ rfl rfl rfl

theorem rdRoot : Statement .rdRoot :=
  of_row _ 42 ⟨"RD.ROOT", 0x01D00000000, 0x1FF00000000⟩ rfl rfl rfl

theorem rdCtSel : Statement .rdCtSel :=
  of_row _ 43 ⟨"RD.CT_SEL", 0x02000000000, 0x1FF00000000⟩ rfl rfl rfl

theorem rdCtLen : Statement .rdCtLen :=
  of_row _ 44 ⟨"RD.CT_LEN", 0x02100000000, 0x1FF00000000⟩ rfl rfl rfl

theorem rdCtBits0 : Statement .rdCtBits0 :=
  of_row _ 45 ⟨"RD.CT_BITS0", 0x02200000000, 0x1FF00000000⟩ rfl rfl rfl

theorem rdCtBits1 : Statement .rdCtBits1 :=
  of_row _ 46 ⟨"RD.CT_BITS1", 0x02300000000, 0x1FF00000000⟩ rfl rfl rfl

theorem rdCtBits2 : Statement .rdCtBits2 :=
  of_row _ 47 ⟨"RD.CT_BITS2", 0x02400000000, 0x1FF00000000⟩ rfl rfl rfl

theorem rdCtBits3 : Statement .rdCtBits3 :=
  of_row _ 48 ⟨"RD.CT_BITS3", 0x02500000000, 0x1FF00000000⟩ rfl rfl rfl

theorem rdCtBits4 : Statement .rdCtBits4 :=
  of_row _ 49 ⟨"RD.CT_BITS4", 0x02600000000, 0x1FF00000000⟩ rfl rfl rfl

theorem rdCtBits5 : Statement .rdCtBits5 :=
  of_row _ 50 ⟨"RD.CT_BITS5", 0x02700000000, 0x1FF00000000⟩ rfl rfl rfl

theorem rdCtBits6 : Statement .rdCtBits6 :=
  of_row _ 51 ⟨"RD.CT_BITS6", 0x02800000000, 0x1FF00000000⟩ rfl rfl rfl

theorem rdCtBits7 : Statement .rdCtBits7 :=
  of_row _ 52 ⟨"RD.CT_BITS7", 0x02900000000, 0x1FF00000000⟩ rfl rfl rfl

theorem rdOutLen : Statement .rdOutLen :=
  of_row _ 53 ⟨"RD.OUT_LEN", 0x03000000000, 0x1FF00000000⟩ rfl rfl rfl

theorem rdOutSel : Statement .rdOutSel :=
  of_row _ 54 ⟨"RD.OUT_SEL", 0x03100000000, 0x1FF00000000⟩ rfl rfl rfl

theorem rdOutData : Statement .rdOutData :=
  of_row _ 55 ⟨"RD.OUT_DATA", 0x03200000000, 0x1FF00000000⟩ rfl rfl rfl

theorem rdHdrEnd : Statement .rdHdrEnd :=
  of_row _ 56 ⟨"RD.HDR_END", 0x03300000000, 0x1FF00000000⟩ rfl rfl rfl

theorem rdPad : Statement .rdPad :=
  of_row _ 57 ⟨"RD.PAD", 0x03400000000, 0x1FF00000000⟩ rfl rfl rfl

theorem rdDbitsLo : Statement .rdDbitsLo :=
  of_row _ 58 ⟨"RD.DBITS_LO", 0x03500000000, 0x1FF00000000⟩ rfl rfl rfl

theorem rdDbitsHi : Statement .rdDbitsHi :=
  of_row _ 59 ⟨"RD.DBITS_HI", 0x03600000000, 0x1FF00000000⟩ rfl rfl rfl

theorem wrIgnored (addr : RegAddr) (wdata : Word) : Statement (.wrIgnored addr wdata) :=
  of_row _ 60 ⟨"WR.IGNORED", 0x10000000000, 0x10000000000⟩ rfl rfl (by
    simp only [OpcodeRow.takes, beq_iff_eq]
    exact writeWord_and_wMask addr wdata)

theorem rdZero (addr : RegAddr) : Statement (.rdZero addr) :=
  of_row _ 61 ⟨"RD.ZERO", 0x00000000000, 0x10000000000⟩ rfl rfl (by
    simp only [OpcodeRow.takes, beq_iff_eq]
    exact readWord_and_wMask addr)

end Sys2Proof.Laws.EncodeUnderRow
end

