-- ==== Sys2Proof/Tests/Slice0.lean ====
section
/-! SUPPORT. Tests: what WellFormed refuses, every row's decoding from a word of the spec, one-transaction results from
95_test_vectors.md and the rules' own examples; and a witness for every statement that has hypotheses. -/

set_option Elab.async false
set_option synthInstance.maxSize 4000

namespace Sys2Proof.Tests

open Sys2Proof Sys2Proof.Machine

/-! ## Helpers -/

/-- The state after instructions, all of which answer a next state. -/
def after (is : List Instr) (s : State) : State :=
  match runInstrs is s with
  | .next t => t
  | .fault _ => s
  | .refused _ => s

theorem exec_after {i : Instr} {s t : State} (h : exec i s = .next t) : exec i s = .next (after [i] s) := by
  simp [after, runInstrs, h]

/-- The word an instruction makes the host read. -/
def readBy (i : Instr) (s : State) : Option Word := (after [i] s).bus.lastRead

/-- A machine right after reset with the given capacities. -/
def sized (i o : Word) : State := State.resetWith { inCap := i, outCap := o }

/-- A small machine right after reset. -/
def fresh : State := sized 64 64

/-- Push bytes. -/
def load (l : List Byte) (s : State) : State := after (l.map Instr.wrInPush) s

/-- Push records. -/
def loadFt (l : List (Byte × Word)) (s : State) : State := after (l.flatMap (fun p => [.wrFtSym p.1, .wrFtPush p.2])) s

/-- "aaabbc". -/
def text : List Byte := [0x61, 0x61, 0x61, 0x62, 0x62, 0x63]

/-- The table of "aaabbc". -/
def table : List FtRecord := [⟨0x61, 3⟩, ⟨0x62, 2⟩, ⟨0x63, 1⟩]

/-- The container of "aaabbc" (95_test_vectors.md V40). -/
def container : List Byte := [0x00, 0x03, 0x61, 0, 0, 0, 3, 0x62, 0, 0, 0, 2, 0x63, 0, 0, 0, 1, 0x07, 0x1F, 0x00]

/-- The codes of "aaabbc" (V40: 0 0 0 11 11 10), each with its symbol. -/
def spelling : List (List Bool × Byte) :=
  [([false], 0x61), ([false], 0x61), ([false], 0x61), ([true, true], 0x62), ([true, true], 0x62), ([true, false], 0x63)]

/-- "aaabbc" loaded. -/
def loaded : State := load text fresh

/-- "aaabbc" counted. -/
def counted : State := after [.freq] loaded

/-- "aaabbc" with its tree. -/
def treed : State := after [.build] counted

/-- "aaabbc" with its codes: ready to pack. -/
def coded : State := after [.genc] treed

/-- "aaabbc" packed. -/
def packed : State := after [.pack] coded

/-- The container loaded. -/
def boxed : State := load container fresh

/-- The container's table restored and its tree built: ready to decode. -/
def opened : State := after [.parse, .build] boxed

/-- A machine with a fault recorded. -/
def failed : State := after [.cmdIllegal 0x99] (load [0x61, 0x62] fresh)

/-! ## WellFormed refuses -/

/-- A command word is no illegal command (30_encoding.md R116). -/
theorem test_wf_refuses_a_command_word : (Instr.cmdIllegal 0x11).wf = false ∧ (Instr.cmdIllegal 0x04).wf = true := by
  decide

/-- A write to a writable register is not ignored (40_host_access.md R151). -/
theorem test_wf_refuses_a_writable_address : (Instr.wrIgnored 0x08 5).wf = false ∧ (Instr.wrIgnored 0x09 5).wf = true := by
  decide

/-- A read of a readable register is no RD.ZERO (40_host_access.md R153). -/
theorem test_wf_refuses_a_readable_address : (Instr.rdZero 0x01).wf = false ∧ (Instr.rdZero 0x07).wf = true := by decide

/-- A number with a bit above bit 40 is no transaction word. -/
theorem test_wide_numbers_are_rejected :
    decodeNat (2 ^ 41) matches .error .widerThanATransaction ∧ decodeTableWord 48 (2 ^ 41) = none
      ∧ decodeTableWord 48 0x10000000011 = some .build := by
  decide +kernel

/-! ## Decoding: every row of the opcode table, from words written out -/

/-- The twelve command words (30_encoding.md R115). -/
theorem test_decode_commands : ([
    (0x10000000000, .nop), (0x10000000001, .srst), (0x10000000002, .iclr),
    (0x10000000003, .fclr), (0x10000000010, .freq), (0x10000000011, .build),
    (0x10000000012, .genc), (0x10000000013, .pack), (0x10000000014, .parse),
    (0x10000000015, .decode), (0x10000000020, .compress), (0x10000000021, .decompress)] : List (Transaction × Instr)).all
      (fun p => decide (decode p.1 = p.2)) = true := by decide +kernel

/-- The writes (20_memory.md R81, 30_encoding.md R113: the bits a row ignores are set here), the illegal command,
and the two catch-all rows. -/
theorem test_decode_writes : ([
    (0x10000000099, .cmdIllegal 0x99), (0x10812345661, .wrInPush 0x61), (0x10AFFFFFFFF, .wrInSel 0xFFFFFFFF),
    (0x11000000161, .wrFtSym 0x61), (0x11180000003, .wrFtPush 0x80000003), (0x1130000FF80, .wrFtSel 0x80),
    (0x118000003FF, .wrNodeSel 0x1FF), (0x120000007A5, .wrCtSel 0xA5), (0x13180000001, .wrOutSel 0x80000001),
    (0x10900000005, .wrIgnored 0x09 5), (0x00700000000, .rdZero 0x07)] : List (Transaction × Instr)).all
      (fun p => decide (decode p.1 = p.2)) = true := by decide +kernel

/-- Reads at 0x01 to 0x0B (20_memory.md R81); WDATA is ignored (30_encoding.md R110). -/
theorem test_decode_status_and_input_reads : ([
    (0x00100000000, .rdStatus), (0x00200000000, .rdErr), (0x00300000000, .rdErrInfo),
    (0x004FFFFFFFF, .rdId), (0x00500000000, .rdCapIn), (0x00600000000, .rdCapOut),
    (0x00900000000, .rdInLen), (0x00A00000000, .rdInSel), (0x00B00000000, .rdInData)] : List (Transaction × Instr)).all
      (fun p => decide (decode p.1 = p.2)) = true := by decide +kernel

/-- Reads at 0x10 to 0x17. -/
theorem test_decode_table_reads : ([
    (0x01000000000, .rdFtSym), (0x01200000000, .rdFtCount), (0x01300000000, .rdFtSel),
    (0x01400000000, .rdFtRsym), (0x01500000000, .rdFtRcnt), (0x01600000000, .rdFtTotalLo),
    (0x01700000000, .rdFtTotalHi)] : List (Transaction × Instr)).all
      (fun p => decide (decode p.1 = p.2)) = true := by decide +kernel

/-- Reads at 0x18 to 0x1D. -/
theorem test_decode_tree_reads : ([
    (0x01800000000, .rdNodeSel), (0x01900000000, .rdNodeInfo), (0x01A00000000, .rdNodeFreqLo),
    (0x01B00000000, .rdNodeFreqHi), (0x01C00000000, .rdNodeCount), (0x01D00000000, .rdRoot)] : List (Transaction × Instr)).all
      (fun p => decide (decode p.1 = p.2)) = true := by decide +kernel

/-- Reads at 0x20 to 0x36. -/
theorem test_decode_code_and_output_reads : ([
    (0x02000000000, .rdCtSel), (0x02100000000, .rdCtLen), (0x02200000000, .rdCtBits0),
    (0x02300000000, .rdCtBits1), (0x02400000000, .rdCtBits2), (0x02500000000, .rdCtBits3),
    (0x02600000000, .rdCtBits4), (0x02700000000, .rdCtBits5), (0x02800000000, .rdCtBits6),
    (0x02900000000, .rdCtBits7), (0x03000000000, .rdOutLen), (0x03100000000, .rdOutSel),
    (0x03200000000, .rdOutData), (0x03300000000, .rdHdrEnd), (0x03400000000, .rdPad),
    (0x03500000000, .rdDbitsLo), (0x03600000000, .rdDbitsHi)] : List (Transaction × Instr)).all
      (fun p => decide (decode p.1 = p.2)) = true := by decide +kernel

/-! ## One transaction each -/

/-- V1. -/
theorem test_reset_reads : readBy .rdId State.reset = some 0x48554631 ∧ readBy .rdStatus State.reset = some 0
    ∧ readBy .rdCapIn State.reset = some 0x00010000 := by decide +kernel

/-- V2: bits 31:8 of the data are ignored. -/
theorem test_in_push : (after [decode 0x10812345661] fresh).blk.inLen = 1
    ∧ readBy .rdInData (after [decode 0x10812345661] fresh) = some 0x61 := by decide +kernel

/-- V3: at the length the window reads 0. -/
theorem test_in_data_window : readBy .rdInData (after [.wrInSel 1] (load [0x61, 0x62] fresh)) = some 0x62
    ∧ readBy .rdInData (after [.wrInSel 2] (load [0x61, 0x62] fresh)) = some 0 := by decide +kernel

/-- V4. -/
theorem test_narrow_writes : readBy .rdFtSym (after [decode 0x11000000161] fresh) = some 0x61
    ∧ readBy .rdNodeSel (after [decode 0x118000003FF] fresh) = some 0x1FF := by decide +kernel

/-- V5: FT_SYM keeps its value; BUILD finds the duplicate and keeps FT. -/
theorem test_ft_push_and_dup : readBy .rdErr (after [.wrFtSym 0x61, .wrFtPush 3, .wrFtPush 2, .build] fresh) = some 0x1111
    ∧ (after [.wrFtSym 0x61, .wrFtPush 3, .wrFtPush 2, .build] fresh).blk.errInfo = 1
    ∧ (after [.wrFtSym 0x61, .wrFtPush 3, .wrFtPush 2, .build] fresh).blk.ftCount = 2 := by decide +kernel

/-- V7: IN_CAP = 2. -/
theorem test_in_overflow : readBy .rdErr (load [0x61, 0x62, 0x63] (sized 2 2)) = some 0x0404
    ∧ (load [0x61, 0x62, 0x63] (sized 2 2)).blk.errInfo = 2
    ∧ (load [0x61, 0x62, 0x63] (sized 2 2)).blk.input = [0x61, 0x62] := by decide +kernel

/-- V9: the first fault stays; select writes and reads work. -/
theorem test_sticky_error : (after [.wrInPush 0x63, .freq, .cmdIllegal 0x77, .wrFtSym 5, .wrInSel 1] failed).blk
      = { failed.blk with ftSym := 5, inSel := 1 } ∧ readBy .rdErr failed = some 0x0301 ∧ failed.blk.errInfo = 0x99 := by
  decide +kernel

/-- V9, V12. -/
theorem test_srst : after [decode 0x10000000001] failed = fresh ∧ (after [.srst] packed).blk = Block.reset := by
  decide +kernel

/-- V11: ICLR, then FCLR, then PACK of nothing. -/
theorem test_clears : readBy .rdStatus packed = some 0x1C
    ∧ (after [.iclr] packed).blk = { packed.blk with inLen := 0, ibuf := [] }
    ∧ readBy .rdStatus (after [.iclr, .fclr] packed) = some 0x10
    ∧ (after [.iclr, .fclr, .pack] packed).blk.output = [0, 0, 0] := by decide +kernel

/-- V17: ascending symbols. -/
theorem test_freq : (after [.freq] (load [0x61, 0x62, 0x72, 0x61, 0x63, 0x61, 0x64, 0x61, 0x62, 0x72, 0x61] fresh)).blk.records
    = [⟨0x61, 5⟩, ⟨0x62, 2⟩, ⟨0x63, 1⟩, ⟨0x64, 1⟩, ⟨0x72, 2⟩] := by decide +kernel

/-- V20: at equal frequency the leaf, of lower index, is the left child. -/
theorem test_build_tie : (List.range 6).map (fun i => readBy .rdNodeInfo (after [.wrNodeSel (BitVec.ofNat 9 i)] treed))
    = [0x0D840000, 0x0D880000, 0x0D8C0000, 0x08000202, 0x08000600, 0].map some := by decide +kernel

/-- V28: sums are not cut to 32 bits. -/
theorem test_build_wide_sum : readBy .rdNodeFreqHi (after [.build, .wrNodeSel 3]
      (loadFt [(0x00, 0xFFFFFFFF), (0x01, 0xFFFFFFFF), (0x02, 1)] fresh)) = some 1
    ∧ readBy .rdNodeFreqLo (after [.build, .wrNodeSel 3]
      (loadFt [(0x00, 0xFFFFFFFF), (0x01, 0xFFFFFFFF), (0x02, 1)] fresh)) = some 0 := by decide +kernel

/-- V30. -/
theorem test_genc : ([0x61, 0x62, 0x63, 0x64] : List Byte).map (fun x => readBy .rdCtBits0 (after [.wrCtSel x] coded))
      = [some 0, some 3, some 2, some 0]
    ∧ readBy .rdCtLen (after [.wrCtSel 0x63] coded) = some 0x80000002 := by decide +kernel

/-- V32: the single symbol's code is "0" only. -/
theorem test_genc_single : codeBits ((after [.build, .genc] (loadFt [(0x61, 4)] fresh)).blk.code 0x61) = [false] := by
  decide +kernel

/-- V40. -/
theorem test_pack : packed.blk.output = container ∧ packed.blk.pad = 7 ∧ packed.blk.dbits = 9 := by decide +kernel

/-- 46_unpack.md R243. -/
theorem test_parse : (after [.parse] boxed).blk.records = table ∧ (after [.parse] boxed).blk.hdrEnd = 17 := by
  decide +kernel

/-- 46_unpack.md R257. -/
theorem test_decode : (after [.decode] opened).blk.output = text ∧ (after [.decode] opened).blk.dbits = 9 := by
  decide +kernel

/-- 47_macro.md R264(1). -/
theorem test_compress : (after [.compress] loaded).blk.output = container
    ∧ readBy .rdStatus (after [.compress] loaded) = some 0x1C := by decide +kernel

/-- 47_macro.md R264(3). -/
theorem test_decompress : (after [.decompress] boxed).blk.output = text
    ∧ readBy .rdStatus (after [.decompress] boxed) = some 0x16 := by decide +kernel

/-- Program P4: the container without its last byte. -/
theorem test_truncated : readBy .rdErr (after [.decompress] (load container.dropLast fresh)) = some 0x1125
    ∧ readBy .rdStatus (after [.decompress] (load container.dropLast fresh)) = some 7 := by decide +kernel

/-! ## Witnesses: a concrete state meeting the hypotheses of each statement that has some -/

theorem witness_DecodeOfEncodeIsIdentity : (Instr.wrIgnored 0x09 5).wf = true ∧ (Instr.cmdIllegal 0xFFFFFFFF).wf = true := by
  decide

theorem witness_FirstMatchingRowIsTheKind : (⟨"BUILD", 0x10000000011, 0x1FFFFFFFFFF⟩ : OpcodeRow) ∈ opcodeTable
    ∧ (⟨"BUILD", 0x10000000011, 0x1FFFFFFFFFF⟩ : OpcodeRow).takes 0x10000000011 = true := by decide +kernel

theorem witness_TransactionsUseTheirBits : decode (writeWord 0x00 0x99) = decode (writeWord 0x00 0x99) := rfl

theorem witness_StepTakesTheOldestEvent :
    (present (.transaction 0x10000000011) fresh).bus.pending = .transaction 0x10000000011 :: []
    ∧ (present .hardReset fresh).bus.pending = .hardReset :: [] ∧ fresh.bus.pending = [] := by decide +kernel

theorem witness_StatusAndErrorRead : (after [.decompress] (load [0, 0, 0, 1] fresh)).blk.errCode = 0x30
    ∧ fresh.blk.errCode = 0x00 ∧ failed.blk.errCode = 0x01 := by decide +kernel

theorem witness_InputWindow : (after [.wrInSel 5] loaded).blk.inSel.toNat < (after [.wrInSel 5] loaded).blk.inLen.toNat
    ∧ (after [.wrInSel 6] loaded).blk.inLen.toNat = (after [.wrInSel 6] loaded).blk.inSel.toNat := by decide +kernel

theorem witness_FrequencyTableWindow :
    (after [.wrFtSel 2] counted).blk.ftSel.toNat < (after [.wrFtSel 2] counted).blk.ftCount.toNat
    ∧ (after [.wrFtSel 3] counted).blk.ftCount.toNat = (after [.wrFtSel 3] counted).blk.ftSel.toNat
    ∧ counted.blk.ftCount.toNat ≤ 256 := by decide +kernel

theorem witness_NodeWindow :
    (after [.wrNodeSel 4] treed).blk.nodeSel.toNat < (after [.wrNodeSel 4] treed).blk.nodeCount.toNat
    ∧ (after [.wrNodeSel 5] treed).blk.nodeCount.toNat = (after [.wrNodeSel 5] treed).blk.nodeSel.toNat := by decide +kernel

theorem witness_CodeWindow :
    (coded.blk.ctValid = true ∧ ((after [.wrCtSel 0x63] coded).blk.code 0x63).valid = true)
    ∧ treed.blk.ctValid = false ∧ (coded.blk.code 0x64).valid = false := by decide +kernel

theorem witness_OutputWindow : (after [.wrOutSel 19] packed).blk.outSel.toNat < (after [.wrOutSel 19] packed).blk.outLen.toNat
    ∧ (after [.wrOutSel 20] packed).blk.outLen.toNat = (after [.wrOutSel 20] packed).blk.outSel.toNat := by decide +kernel

theorem witness_ReadsChangeNothing : Instr.rdFtTotalHi.isRead = true ∧ (Instr.rdZero 0x07).isRead = true := by decide +kernel

theorem witness_AccessesThatMatchNoRegister : (0x07 : RegAddr) ∉ readableAddrs ∧ (0x00 : RegAddr) ∉ readableAddrs
    ∧ (0x07 : RegAddr) ∉ writableAddrs ∧ (0x01 : RegAddr) ∉ writableAddrs
    ∧ (0x31 : RegAddr) ∈ readableAddrs ∧ (0x31 : RegAddr) ∈ writableAddrs := by decide

theorem witness_SelectWritesStore : loaded.blk.inLen.toNat ≤ (6 : Word).toNat := by decide +kernel

theorem witness_InPushAppends :
    ((sized 1 1).blk.err = false ∧ (sized 1 1).blk.inLen ≠ (sized 1 1).cfg.inCap ∧ Memory.wf (sized 1 1).blk.ibuf = true)
    ∧ ((load [0x61] (sized 1 1)).blk.err = false
      ∧ (load [0x61] (sized 1 1)).blk.inLen = (load [0x61] (sized 1 1)).cfg.inCap)
    ∧ failed.blk.err = true := by decide +kernel

/-- The table one record below its capacity, and at it: R146's two cases where they meet. -/
theorem witness_FtPushAppends : ∃ s u : State,
    (s.blk.err = false ∧ s.blk.ftCount = 255 ∧ s.blk.ftCount ≠ 256 ∧ Cells.wf blankRecord s.blk.ft = true)
    ∧ (u.blk.err = false ∧ u.blk.ftCount = 256) ∧ failed.blk.err = true :=
  ⟨after (List.replicate 255 (.wrFtPush 1)) fresh, after (List.replicate 256 (.wrFtPush 1)) fresh, by decide +kernel⟩

theorem witness_StickyErrorIgnoresGatedWrites : failed.blk.err = true ∧ Instr.freq.isGated = true
    ∧ Instr.rdErr.isRead = true := by decide +kernel

theorem witness_OnlyResetLeavesTheErrorState : ∃ t : State,
    step (present (.transaction 0x10000000001) failed) = .next t
    ∧ (present (.transaction 0x10000000001) failed).blk.err = true :=
  ⟨_, rfl, by decide +kernel⟩

theorem witness_FaultsAreTheirOwnAndPrecise : Instr.build ≠ .compress ∧ Instr.build ≠ .decompress ∧ fresh.blk.err = false
    ∧ exec .build fresh = .next (after [.build] fresh) ∧ (after [.build] fresh).blk.err = true :=
  ⟨by decide, by decide, by decide +kernel, exec_after rfl, by decide +kernel⟩

theorem witness_SrstIsTheResetState : fresh.blk = Block.reset ∧ Instr.rdErr.isRead = true ∧ Instr.rdErr ≠ .rdId
    ∧ Instr.rdErr ≠ .rdCapIn ∧ Instr.rdErr ≠ .rdCapOut := by decide +kernel

theorem witness_ControlCommandsEmptyWhatTheyName : packed.blk.err = false := by decide +kernel

theorem witness_IllegalCommandIsReported : (0x111 : Word) ∉ commandWords ∧ (0x04 : Word) ∉ commandWords
    ∧ fresh.blk.err = false ∧ failed.blk.err = true := by decide +kernel

theorem witness_FreqCountsTheInput : loaded.blk.err = false ∧ fresh.blk.err = false := by decide +kernel

theorem witness_FreqTableIsFaithful : loaded.blk.err = false ∧ exec .freq loaded = .next counted :=
  ⟨by decide +kernel, exec_after rfl⟩

/-- A table whose record 1 has count 0. -/
def withZero : State := loadFt [(0x61, 3), (0x62, 0)] fresh

/-- A table whose record 1 repeats the symbol of record 0. -/
def withRepeat : State := loadFt [(0x61, 3), (0x61, 2)] fresh

theorem cleanBelow_one {recs : List FtRecord} {r : FtRecord} (h : recs[0]? = some r) (hr : r.cnt ≠ 0) :
    cleanBelow recs 1 := by
  intro j hj
  obtain rfl : j = 0 := by omega
  simpa [h] using hr

theorem withZero_records : withZero.blk.records = [⟨0x61, 3⟩, ⟨0x62, 0⟩] := by decide +kernel

theorem withRepeat_records : withRepeat.blk.records = [⟨0x61, 3⟩, ⟨0x61, 2⟩] := by decide +kernel

theorem witness_BuildFaults : (fresh.blk.err = false ∧ fresh.blk.ftCount = 0)
    ∧ (withZero.blk.err = false ∧ cleanBelow withZero.blk.records 1 ∧ zeroAt withZero.blk.records 1)
    ∧ (withRepeat.blk.err = false ∧ cleanBelow withRepeat.blk.records 1 ∧ ¬zeroAt withRepeat.blk.records 1
      ∧ repeatAt withRepeat.blk.records 1) := by
  rw [withZero_records, withRepeat_records]
  refine ⟨by decide +kernel, ⟨by decide +kernel, cleanBelow_one (r := ⟨0x61, 3⟩) rfl (by decide), _, rfl, rfl⟩,
    by decide +kernel, cleanBelow_one (r := ⟨0x61, 3⟩) rfl (by decide), ?_, _, rfl, by decide⟩
  rintro ⟨r, h, hr⟩
  obtain rfl : (⟨0x61, 2⟩ : FtRecord) = r := by simpa using h
  exact absurd hr (by decide)

theorem witness_BuildMakesTheTree : (counted.blk.err = false ∧ counted.blk.ftCount ≠ 0 ∧ tableWf counted.blk.records)
    ∧ ((loadFt [(0x61, 4)] fresh).blk.err = false ∧ (loadFt [(0x61, 4)] fresh).blk.ftCount = 1
      ∧ tableWf (loadFt [(0x61, 4)] fresh).blk.records) := by decide +kernel

theorem witness_ExtractMinTakesTheLeastKey : ([0, 1, 2] : List Nat) ≠ [] := by decide

/-- The first and the last merge of three records, at each a node that waits, and a tree of one record. -/
theorem witness_LeftChildIsNeverHeavier :
    (counted.blk.err = false ∧ counted.blk.ftCount ≠ 0 ∧ tableWf counted.blk.records ∧ exec .build counted = .next treed
      ∧ 2 ≤ treed.blk.ftCount.toNat ∧ treed.blk.ftCount.toNat = 3 ∧ treed.blk.nodeCount.toNat = 5
      ∧ 2 = (treed.blk.nodeNum 3).left.toNat ∧ 1 = (treed.blk.nodeNum 3).right.toNat ∧ treed.blk.waitsAt 3 0
      ∧ 0 = (treed.blk.nodeNum 4).left.toNat ∧ 3 = (treed.blk.nodeNum 4).right.toNat ∧ treed.blk.waitsAt 4 3)
    ∧ (loadFt [(0x61, 4)] fresh).blk.err = false ∧ (loadFt [(0x61, 4)] fresh).blk.ftCount = 1
      ∧ tableWf (loadFt [(0x61, 4)] fresh).blk.records
      ∧ exec .build (loadFt [(0x61, 4)] fresh) = .next (after [.build] (loadFt [(0x61, 4)] fresh))
      ∧ (after [.build] (loadFt [(0x61, 4)] fresh)).blk.nodeCount.toNat = 2 :=
  ⟨⟨by decide +kernel, by decide +kernel, by decide +kernel, exec_after rfl, by decide +kernel⟩, by decide +kernel,
    by decide +kernel, by decide +kernel, exec_after rfl, by decide +kernel⟩

/-- The table FREQ counts and the same table loaded by the host, in two different blocks. -/
theorem witness_BuildDependsOnTheRecordsAlone : ∃ s' t' : State, counted.blk.err = false ∧ s'.blk.err = false
    ∧ counted.blk.records = s'.blk.records ∧ counted.blk ≠ s'.blk
    ∧ exec .build counted = .next treed ∧ exec .build s' = .next t' :=
  ⟨loadFt [(0x61, 3), (0x62, 2), (0x63, 1)] (sized 9 9), _, by decide +kernel, by decide +kernel, by decide +kernel,
    by decide +kernel, exec_after rfl, rfl⟩

theorem witness_GencRecordsThePathsToTheLeaves : (counted.blk.err = false ∧ counted.blk.treeValid = false)
    ∧ treed.blk.err = false ∧ treed.blk.treeValid = true ∧ flagsFaithful treed.blk := by decide +kernel

/-- A machine with a tree of one symbol. -/
def treedSingle : State := after [.build] (loadFt [(0x61, 4)] fresh)

theorem witness_CodesAreACompletePrefixCode : (treed.blk.err = false ∧ treed.blk.treeValid = true ∧ flagsFaithful treed.blk
      ∧ exec .genc treed = .next coded ∧ 2 ≤ treed.blk.ftCount.toNat ∧ (coded.blk.code 0x61).valid = true
      ∧ (coded.blk.code 0x62).valid = true ∧ (0x61 : Byte) ≠ 0x62)
    ∧ (treedSingle.blk.err = false ∧ treedSingle.blk.treeValid = true ∧ flagsFaithful treedSingle.blk
      ∧ exec .genc treedSingle = .next (after [.genc] treedSingle) ∧ treedSingle.blk.ftCount.toNat = 1
      ∧ ((after [.genc] treedSingle).blk.code 0x61).valid = true) :=
  ⟨⟨by decide +kernel, by decide +kernel, by decide +kernel, exec_after rfl, by decide +kernel, by decide +kernel,
    by decide +kernel, by decide⟩, by decide +kernel, by decide +kernel, by decide +kernel, exec_after rfl, by decide +kernel,
    by decide +kernel⟩

/-- The codes of "aaabbc" with the input replaced by `l`. -/
def recoded (l : List Byte) : State := load l (after [.iclr] coded)

/-- "aaabbc" ready to pack into an output buffer of `n` bytes. -/
def codedInto (n : Word) : State := after [.freq, .build, .genc] (load text (sized 64 n))

theorem witness_PackFaults : (counted.blk.err = false ∧ counted.blk.ftCount ≠ 0 ∧ counted.blk.ctValid = false)
    ∧ ((recoded [0x61]).blk.err = false ∧ (recoded [0x61]).blk.ctValid = true
      ∧ (recoded [0x61]).blk.ftTotal.toNat ≠ (recoded [0x61]).blk.inLen.toNat)
    ∧ (∃ s : State, s.blk.err = false ∧ s.blk.ctValid = true ∧ s.blk.ftTotal.toNat = s.blk.inLen.toNat
      ∧ s.blk.input[2]? = some 0x64 ∧ (s.blk.code 0x64).valid = false
      ∧ ∀ y ∈ s.blk.input.take 2, (s.blk.code y).valid = true)
    ∧ ((codedInto 19).blk.err = false ∧ (codedInto 19).blk.ctValid = true
      ∧ (codedInto 19).blk.ftTotal.toNat = (codedInto 19).blk.inLen.toNat
      ∧ (∀ y ∈ (codedInto 19).blk.input, ((codedInto 19).blk.code y).valid = true)
      ∧ 9 = ((codedInto 19).blk.input.map (fun y => ((codedInto 19).blk.code y).len.toNat)).sum
      ∧ 20 = 3 + 5 * (codedInto 19).blk.ftCount.toNat + (9 + (8 - 9 % 8) % 8) / 8
      ∧ (codedInto 19).cfg.outCap.toNat < 20) :=
  ⟨by decide +kernel, by decide +kernel, ⟨recoded [0x61, 0x61, 0x64, 0x61, 0x61, 0x61], by decide +kernel⟩, by decide +kernel⟩

/-- The container fits to the byte. -/
theorem witness_PackWritesTheContainer : (codedInto 20).blk.err = false ∧ (codedInto 20).blk.ctValid = true
    ∧ (codedInto 20).blk.ftTotal.toNat = (codedInto 20).blk.inLen.toNat
    ∧ (∀ y ∈ (codedInto 20).blk.input, ((codedInto 20).blk.code y).valid = true)
    ∧ spelling.flatMap Prod.fst = (codedInto 20).blk.input.flatMap (fun y => codeBits ((codedInto 20).blk.code y))
    ∧ 7 = (8 - (spelling.flatMap Prod.fst).length % 8) % 8
    ∧ 3 + 5 * (codedInto 20).blk.ftCount.toNat + ((spelling.flatMap Prod.fst).length + 7) / 8
        = (codedInto 20).cfg.outCap.toNat := by decide +kernel

theorem witness_PaddingIsCorrect : coded.blk.err = false ∧ exec .pack coded = .next packed ∧ packed.blk.err = false :=
  ⟨by decide +kernel, exec_after rfl, by decide +kernel⟩

/-- The container of nothing, parsed. -/
def openedEmpty : State := after [.parse] (load [0x00, 0x00, 0x00] fresh)

theorem witness_EmptyInputAndEmptyTable :
    ((sized 1 3).blk.err = false ∧ (sized 1 3).blk.inLen = 0 ∧ (sized 1 3).blk.ftCount = 0
      ∧ 3 ≤ (sized 1 3).cfg.outCap.toNat)
    ∧ (openedEmpty.blk.err = false ∧ decodeStarts openedEmpty.blk ∧ openedEmpty.blk.ftCount = 0
      ∧ (Memory.read openedEmpty.blk.ibuf openedEmpty.blk.hdrEnd.toNat).toNat
        = 8 * (openedEmpty.blk.inLen.toNat - openedEmpty.blk.hdrEnd.toNat - 1)) := by decide +kernel

/-- The count field of the loaded bytes. -/
def countField (s : State) : Nat := 256 * (Memory.read s.blk.ibuf 0).toNat + (Memory.read s.blk.ibuf 1).toNat

/-- The header of `recs` loaded. -/
def boxedTable (recs : List FtRecord) : State := load (headerBytes recs) fresh

theorem witness_ParseFaults :
    ((load [0x00] fresh).blk.err = false ∧ (load [0x00] fresh).blk.inLen.toNat < 2)
    ∧ ((load [0x01, 0x01] fresh).blk.err = false ∧ 2 ≤ (load [0x01, 0x01] fresh).blk.inLen.toNat
      ∧ 256 < countField (load [0x01, 0x01] fresh))
    ∧ ((load [0x01, 0x00] fresh).blk.err = false ∧ 2 ≤ (load [0x01, 0x00] fresh).blk.inLen.toNat
      ∧ countField (load [0x01, 0x00] fresh) ≤ 256
      ∧ (load [0x01, 0x00] fresh).blk.inLen.toNat < 2 + 5 * countField (load [0x01, 0x00] fresh))
    ∧ ((boxedTable [⟨0x61, 3⟩, ⟨0x62, 0⟩]).blk.err = false
      ∧ (boxedTable [⟨0x61, 3⟩, ⟨0x62, 0⟩]).blk.input = headerBytes [⟨0x61, 3⟩, ⟨0x62, 0⟩] ++ []
      ∧ cleanBelow [⟨0x61, 3⟩, ⟨0x62, 0⟩] 1 ∧ zeroAt [⟨0x61, 3⟩, ⟨0x62, 0⟩] 1)
    ∧ ((boxedTable [⟨0x61, 3⟩, ⟨0x61, 2⟩]).blk.err = false
      ∧ (boxedTable [⟨0x61, 3⟩, ⟨0x61, 2⟩]).blk.input = headerBytes [⟨0x61, 3⟩, ⟨0x61, 2⟩] ++ []
      ∧ cleanBelow [⟨0x61, 3⟩, ⟨0x61, 2⟩] 1 ∧ ¬zeroAt [⟨0x61, 3⟩, ⟨0x61, 2⟩] 1 ∧ repeatAt [⟨0x61, 3⟩, ⟨0x61, 2⟩] 1) := by
  refine ⟨by decide +kernel, by decide +kernel, by decide +kernel,
    ⟨by decide +kernel, by decide +kernel, cleanBelow_one (r := ⟨0x61, 3⟩) rfl (by decide), _, rfl, rfl⟩,
    by decide +kernel, by decide +kernel, cleanBelow_one (r := ⟨0x61, 3⟩) rfl (by decide), ?_, _, rfl, by decide⟩
  rintro ⟨r, h, hr⟩
  obtain rfl : (⟨0x61, 2⟩ : FtRecord) = r := by simpa using h
  exact absurd hr (by decide)

theorem witness_ParseRestoresTheTable : boxed.blk.err = false ∧ tableWf table
    ∧ boxed.blk.input = headerBytes table ++ [0x07, 0x1F, 0x00] := by decide +kernel

/-- The table of "aaabbc" parsed and built, the packed region being `l`. -/
def openedWith (l : List Byte) : State := after [.parse, .build] (load (headerBytes table ++ l) fresh)

theorem witness_DecodeHeaderFaults : (boxed.blk.err = false ∧ boxed.blk.hdrValid = false)
    ∧ ((openedWith []).blk.err = false ∧ (openedWith []).blk.hdrValid = true ∧ (openedWith []).blk.treeValid = true
      ∧ (openedWith []).blk.inLen.toNat < (openedWith []).blk.hdrEnd.toNat + 1)
    ∧ ((openedWith [8, 0]).blk.hdrValid = true ∧ (openedWith [8, 0]).blk.treeValid = true
      ∧ (openedWith [8, 0]).blk.hdrEnd.toNat + 1 ≤ (openedWith [8, 0]).blk.inLen.toNat
      ∧ (Memory.read (openedWith [8, 0]).blk.ibuf (openedWith [8, 0]).blk.hdrEnd.toNat).toNat = 8)
    ∧ ((openedWith [7]).blk.hdrValid = true ∧ (openedWith [7]).blk.treeValid = true
      ∧ (openedWith [7]).blk.hdrEnd.toNat + 1 = (openedWith [7]).blk.inLen.toNat
      ∧ (Memory.read (openedWith [7]).blk.ibuf (openedWith [7]).blk.hdrEnd.toNat).toNat = 7)
    ∧ ∃ s : State, s.blk.err = false ∧ s.blk.hdrValid = true ∧ s.blk.ftCount = 0 ∧ s.blk.hdrEnd.toNat = 2
      ∧ s.blk.inLen.toNat = 4 ∧ (Memory.read s.blk.ibuf 2).toNat = 7 :=
  ⟨by decide +kernel, by decide +kernel, by decide +kernel, by decide +kernel,
    ⟨after [.parse] (load [0, 0, 7, 0] fresh), by decide +kernel⟩⟩

theorem witness_DecodeEmitsTheSymbols : opened.blk.err = false ∧ decodeStarts opened.blk ∧ opened.blk.ftCount ≠ 0
    ∧ spells opened.blk spelling ∧ spelling.length = opened.blk.ftTotal.toNat ∧ spelling.length ≤ opened.cfg.outCap.toNat
    ∧ streamBits opened.blk = spelling.flatMap Prod.fst := by decide +kernel

theorem witness_DataBitsStripThePadding : decodeStarts opened.blk ∧ decodeStarts openedEmpty.blk := by decide +kernel

/-- "aaabbc" ready to decode into an output buffer of `n` bytes. -/
def openedInto (n : Word) : State := after [.parse, .build] (load container (sized 64 n))

theorem witness_DecodeStreamFaults :
    ((openedInto 5).blk.err = false ∧ decodeStarts (openedInto 5).blk ∧ (openedInto 5).blk.ftCount ≠ 0
      ∧ arenaInv (openedInto 5).blk ∧ spells (openedInto 5).blk spelling
      ∧ streamBits (openedInto 5).blk = spelling.flatMap Prod.fst ++ [] ∧ (openedInto 5).cfg.outCap.toNat < spelling.length)
    ∧ (∃ s : State, s.blk.err = false ∧ decodeStarts s.blk ∧ s.blk.ftCount ≠ 0 ∧ arenaInv s.blk ∧ spells s.blk []
      ∧ streamBits s.blk = [] ++ [true] ∧ ([] : List Byte).length ≤ s.cfg.outCap.toNat
      ∧ meetsNoLeaf s.blk.node s.blk.root [true] = true)
    ∧ (∃ s : State, s.blk.err = false ∧ decodeStarts s.blk ∧ s.blk.ftCount ≠ 0 ∧ arenaInv s.blk ∧ spells s.blk [([false], 0x61)]
      ∧ streamBits s.blk = [false] ++ [] ∧ 1 ≤ s.cfg.outCap.toNat ∧ 1 ≠ s.blk.ftTotal.toNat) :=
  ⟨by decide +kernel, ⟨openedWith [7, 0x80], by decide +kernel⟩, ⟨openedWith [7, 0x00], by decide +kernel⟩⟩

/-- A container of four 'a', with a 1 among its data bits (46_unpack.md R251). -/
theorem witness_SingleSymbolDecodesAnyBits : ∃ s : State, s.blk.err = false ∧ decodeStarts s.blk ∧ s.blk.ftCount.toNat = 1
    ∧ arenaInv s.blk ∧ streamBits s.blk = [false, true, true, false]
    ∧ (streamBits s.blk).length = s.blk.ftTotal.toNat ∧ (streamBits s.blk).length ≤ s.cfg.outCap.toNat :=
  ⟨after [.parse, .build] (load [0, 1, 0x61, 0, 0, 0, 4, 4, 0x60] fresh), by decide +kernel⟩

theorem witness_CompressIsItsSteps : loaded.blk.err = false ∧ exec .freq loaded = .next counted :=
  ⟨by decide +kernel, exec_after rfl⟩

theorem witness_DecompressIsItsSteps : boxed.blk.err = false ∧ exec .parse boxed = .next (after [.parse] boxed) :=
  ⟨by decide +kernel, exec_after rfl⟩

/-- The packed region begins with the padding count 7, then the nine code bits and seven filler bits (V40). -/
theorem witness_DecompressReturnsTheSpelledBytes : boxed.blk.err = false ∧ tableWf table ∧ table ≠ []
    ∧ (List.replicate 7 false).length = 7
    ∧ boxed.blk.input = headerBytes table ++ BitVec.ofNat 8 7 :: [0x1F, 0x00]
    ∧ (∀ w ∈ spelling,
        leadsTo (Cells.ofList blankNode (buildTree table).1) (BitVec.ofNat 9 (buildTree table).2) w.1 = some w.2)
    ∧ ([0x1F, 0x00] : List Byte).flatMap byteBits = spelling.flatMap Prod.fst ++ List.replicate 7 false
    ∧ spelling.length = (table.map (fun r => r.cnt.toNat)).sum ∧ spelling.length ≤ boxed.cfg.outCap.toNat := by decide +kernel

/-- The container fits to the byte; it is one byte too long; the output buffer is as large as the bound says. -/
theorem witness_CompressCompletesWhenTheContainerFits :
    ((load text (sized 64 20)).blk.err = false
      ∧ containerSize (after [.compress] (load text (sized 64 20))).blk = (load text (sized 64 20)).cfg.outCap.toNat)
    ∧ ((load text (sized 64 19)).blk.err = false
      ∧ (load text (sized 64 19)).cfg.outCap.toNat < containerSize (after [.compress] (load text (sized 64 19))).blk)
    ∧ ((load text (sized 64 1475)).blk.err = false
      ∧ 1283 + 32 * (load text (sized 64 1475)).blk.inLen.toNat ≤ (load text (sized 64 1475)).cfg.outCap.toNat) := by
  decide +kernel

theorem witness_FaultsOfThePipelineCommands : (fresh.blk.err = false
      ∧ exec .decompress fresh = .next (after [.decompress] fresh) ∧ (after [.decompress] fresh).blk.err = true)
    ∧ ((sized 1 2).blk.err = false ∧ exec .compress (sized 1 2) = .next (after [.compress] (sized 1 2))
      ∧ (after [.compress] (sized 1 2)).blk.err = true) :=
  ⟨⟨by decide +kernel, exec_after rfl, by decide +kernel⟩, by decide +kernel, exec_after rfl, by decide +kernel⟩

theorem witness_DecompressRecoversThePackedInput : coded.blk.err = false ∧ flagsFaithful coded.blk
    ∧ exec .pack coded = .next packed ∧ packed.blk.err = false ∧ boxed.blk.err = false
    ∧ boxed.blk.input = packed.blk.output ∧ coded.blk.inLen.toNat ≤ boxed.cfg.outCap.toNat :=
  ⟨by decide +kernel, by decide +kernel, exec_after rfl, by decide +kernel, by decide +kernel, by decide +kernel,
    by decide +kernel⟩

theorem witness_RoundTrip : Config.admissible { inCap := 20, outCap := 20 } ∧ text.length ≤ (20 : Word).toNat
    ∧ containerSize (after [.compress] (load text (sized 20 20))).blk ≤ (20 : Word).toNat := by decide +kernel

/-- The text coded: counted, with its tree and codes. -/
def codedText (l : List Byte) : State := after [.freq, .build, .genc] (load l fresh)

/-- The codes' lengths 0, 1, 8 and 9 bits: each clause of R259. -/
theorem witness_TruncationIsReported :
    (coded.blk.err = false ∧ flagsFaithful coded.blk ∧ exec .pack coded = .next packed ∧ packed.blk.err = false
      ∧ (load container.dropLast fresh).blk.err = false
      ∧ (load container.dropLast fresh).blk.input = packed.blk.output.dropLast
      ∧ coded.blk.inLen.toNat ≤ (load container.dropLast fresh).cfg.outCap.toNat ∧ 8 < packed.blk.dbits.toNat)
    ∧ (after [.pack] fresh).blk.dbits.toNat = 0 ∧ (after [.pack] fresh).blk.err = false
    ∧ (after [.pack] (codedText [0x61])).blk.dbits.toNat = 1 ∧ (after [.pack] (codedText [0x61])).blk.err = false
    ∧ (after [.pack] (codedText [0x61, 0x62, 0x63, 0x64])).blk.dbits.toNat = 8
    ∧ (after [.pack] (codedText [0x61, 0x62, 0x63, 0x64])).blk.err = false :=
  ⟨⟨by decide +kernel, by decide +kernel, exec_after rfl, by decide +kernel, by decide +kernel, by decide +kernel,
    by decide +kernel, by decide +kernel⟩, by decide +kernel⟩

theorem witness_CodeTableIsRestored : coded.blk.err = false ∧ flagsFaithful coded.blk ∧ coded.blk.ftCount ≠ 0
    ∧ exec .pack coded = .next packed ∧ packed.blk.err = false ∧ boxed.blk.err = false
    ∧ boxed.blk.input = packed.blk.output :=
  ⟨by decide +kernel, by decide +kernel, by decide +kernel, exec_after rfl, by decide +kernel, by decide +kernel,
    by decide +kernel⟩

theorem witness_ResetMeetsTheInvariants : Config.admissible { inCap := 1, outCap := 0xFFFFFFFF } := by decide

/-- A state with every flag set but ERR, and a step from it. -/
def busy : State := present (.transaction 0x10000000015) (after [.genc] opened)

theorem busy_steps : ∃ t, step busy = .next t := ⟨_, rfl⟩

theorem witness_StepKeepsTheGlobalInvariants : globalInv busy.cfg busy.blk ∧ ∃ t, step busy = .next t :=
  ⟨by decide +kernel, busy_steps⟩

theorem witness_StepKeepsTheFlagsFaithful : flagsFaithful busy.blk ∧ busy.blk.ctValid = true ∧ busy.blk.hdrValid = true
    ∧ ∃ t, step busy = .next t :=
  ⟨by decide +kernel, by decide +kernel, by decide +kernel, busy_steps⟩

theorem witness_StepKeepsTheStorageCanonical : busy.Inv ∧ ∃ t, step busy = .next t :=
  ⟨⟨by decide +kernel, by decide +kernel, by decide +kernel⟩, busy_steps⟩

theorem witness_ChangesInvalidateWhatDependsOnThem :
    exec .fclr busy = .next (after [.fclr] busy) ∧ (after [.fclr] busy).blk.records ≠ busy.blk.records
    ∧ exec .iclr busy = .next (after [.iclr] busy) ∧ (after [.iclr] busy).blk.input ≠ busy.blk.input
    ∧ Instr.fclr ≠ .compress ∧ Instr.fclr ≠ .decompress ∧ Instr.fclr ≠ .parse ∧ Instr.iclr ≠ .compress
    ∧ Instr.iclr ≠ .decompress :=
  ⟨exec_after rfl, by decide +kernel, exec_after rfl, by decide +kernel, by decide⟩

theorem witness_CommandsKeepTheSelectRegisters : Instr.freq.isGated = true ∧ exec .freq loaded = .next counted :=
  ⟨by decide, exec_after rfl⟩

theorem witness_LoadingAppendsToTheInput : fresh.Inv ∧ fresh.blk.err = false
    ∧ fresh.blk.inLen.toNat + (List.replicate 64 (0x61 : Byte)).length = fresh.cfg.inCap.toNat :=
  ⟨⟨by decide +kernel, by decide +kernel, by decide +kernel⟩, by decide +kernel, by decide +kernel⟩

end Sys2Proof.Tests
end

section
/-! PROOFS. The family 00_scope.md: every instruction and every step answers a next state (R19). -/

namespace Sys2Proof.Machine

/-- The three shapes an instruction's meaning has: a data-changing write runs one rule through the ERR gate
(40_host_access.md R140), whatever the state; any other write replaces the block; a read yields a word to the host. -/
theorem exec_cases (i : Instr) :
    (i.isGated = true ∧ ∃ rule, ∀ s, exec i s = .next (s.gated rule))
    ∨ (i.isGated = false ∧ i.isRead = false ∧ ∀ s, ∃ b, exec i s = .next (s.withBlk b))
    ∨ (i.isGated = false ∧ i.isRead = true ∧ ∀ s, ∃ v, exec i s = .next (s.yieldRead v)) := by
  cases i
  case nop | iclr | fclr | freq | build | genc | pack | parse | decode | compress | decompress | cmdIllegal
      | wrInPush | wrFtPush =>
    exact .inl ⟨rfl, _, fun _ => rfl⟩
  case srst | wrInSel | wrFtSym | wrFtSel | wrNodeSel | wrCtSel | wrOutSel =>
    exact .inr (.inl ⟨rfl, by simp [Instr.isRead, encode], fun _ => ⟨_, rfl⟩⟩)
  case wrIgnored =>
    exact .inr (.inl ⟨rfl, by simp [Instr.isRead, encode], fun s => ⟨s.blk, rfl⟩⟩)
  all_goals exact .inr (.inr ⟨rfl, by simp [Instr.isRead, encode], fun _ => ⟨_, rfl⟩⟩)

/-- Every instruction completes, and neither the capacities nor the pending events are its to change. -/
theorem exec_completes (i : Instr) (s : State) :
    ∃ t, exec i s = .next t ∧ t.cfg = s.cfg ∧ t.bus.pending = s.bus.pending := by
  obtain ⟨-, rule, hrule⟩ | ⟨-, -, hwrite⟩ | ⟨-, -, hread⟩ := exec_cases i
  · exact ⟨s.gated rule, hrule s, by simp, by simp⟩
  · obtain ⟨b, hb⟩ := hwrite s
    exact ⟨s.withBlk b, hb, by simp, by simp⟩
  · obtain ⟨v, hv⟩ := hread s
    exact ⟨s.yieldRead v, hv, by simp, by simp⟩

/-- Every step completes and takes the oldest pending event off, if there is one. -/
theorem step_completes (s : State) :
    ∃ t, step s = .next t ∧ t.cfg = s.cfg ∧ t.bus.pending = s.bus.pending.tail := by
  obtain ⟨hnone, hstep⟩ | ⟨rest, hreset, hstep⟩ | ⟨t, rest, htrans, hstep⟩ := step_cases s
  · exact ⟨s, hstep, rfl, by simp [hnone]⟩
  · exact ⟨_, hstep, by simp, by simp [hreset]⟩
  · obtain ⟨u, hexec, hcfg, hpending⟩ := exec_completes (decode t) (s.withPending rest)
    exact ⟨u, hstep.trans hexec, by simpa using hcfg, by simpa [htrans] using hpending⟩

end Sys2Proof.Machine

open Sys2Proof.Machine

/-- Settles O6: an instruction is a gated rule, a block update or a read, each of which completes (`exec_cases`), and a
step is one of them, a hard reset or idle (`step_cases`). -/
theorem everyStepAnswersANextState : Obligations.EveryStepAnswersANextState := by
  unfold Obligations.EveryStepAnswersANextState
  exact ⟨step_completes, exec_completes⟩

end

section
/-! PROOFS. The family 10_state.md, what a step keeps: a predicate of the block that holds after reset and that each
elementary change of the block keeps is kept by every step. -/

namespace Sys2Proof.Machine

/-- A walk that starts within the output capacity and uses up its bits ends within it (46_unpack.md R253). -/
theorem walkBits_finished_length (node : Cells Node) (root : NodeIndex) (cap : Nat) (bits : List Bool) :
    ∀ (j : Nat) (n : NodeIndex) (start : Nat) (out : List Byte) (n' : NodeIndex) (start' : Nat) (out' : List Byte),
      out.length ≤ cap → walkBits node root cap bits j n start out = .finished n' start' out' → out'.length ≤ cap := by
  induction bits with
  | nil =>
    intro j n start out n' start' out' hout hwalk
    cases hwalk
    exact hout
  | cons bit bits ih =>
    intro j n start out n' start' out' hout hwalk
    simp only [walkBits] at hwalk
    split at hwalk
    · split at hwalk
      · cases hwalk
      · rename_i hroom
        exact ih _ _ _ _ _ _ _ (by simp only [List.length_append, List.length_singleton]; omega) hwalk
    · exact ih _ _ _ _ _ _ _ hout hwalk

/-- What the elementary changes of a block keep: reset, the select registers, fault entry, the invalidations, and the
update at the end of each push and each command, under the condition its rule has checked by then. -/
structure StepInvariant (c : Config) (P : Block → Prop) : Prop where
  reset : P Block.reset
  select : ∀ b inSel ftSym ftSel nodeSel ctSel outSel, P b → P { b with
    inSel := inSel, ftSym := ftSym, ftSel := ftSel, nodeSel := nodeSel, ctSel := ctSel, outSel := outSel }
  faultEntry : ∀ f info b, P b → P (faultEntry f info b)
  invalidateTree : ∀ b, P b → P (invalidateTree b)
  invalidateOutput : ∀ b, P b → P (invalidateOutput b)
  dropTable : ∀ b, P b → P (dropTable b)
  pushByte : ∀ x b, b.inLen ≠ c.inCap → P b →
    P (invalidateHeader { b with ibuf := Memory.write b.ibuf b.inLen.toNat x, inLen := b.inLen + 1 })
  pushRecord : ∀ r b, b.ftCount ≠ 256 → P b → P (invalidateHeader (Machine.invalidateTree
    { b with ft := Cells.write blankRecord b.ft b.ftCount.toNat r, ftCount := b.ftCount + 1 }))
  clearInput : ∀ b, P b → P (invalidateHeader { b with inLen := 0, ibuf := [] })
  clearTable : ∀ b, P b → P (invalidateHeader (Machine.invalidateTree { b with ftCount := 0, ft := [] }))
  countInput : ∀ b, P b → P (invalidateHeader (Machine.invalidateTree (storeRecords (countRecords b.input) b)))
  storeTree : ∀ b, b.ftCount ≠ 0 → ftCheck b.records = none → P b → P (storeTree (buildTree b.records) b)
  storeCodes : ∀ b, b.treeValid = true → P b → P { b with ct := codesOf b.node b.root, ctValid := true }
  storeContainer : ∀ b, containerSize b ≤ c.outCap.toNat → P b → P (storeContainer b)
  storeHeader : ∀ b, 2 ≤ b.inLen.toNat → headerCount b ≤ 256 → headerEnd (headerCount b) ≤ b.inLen.toNat →
    ftCheck (headerRecords b) = none → P b → P (storeHeader (headerRecords b) (Machine.dropTable b))
  storeOutput : ∀ out b, out.length ≤ c.outCap.toNat → P b → P (storeOutput out b)

namespace StepInvariant
variable {c : Config} {P : Block → Prop} {b : Block}

theorem keeps_inPush (h : StepInvariant c P) (x : Byte) (hb : P b) : P (inPush x c b).block := by
  obtain ⟨-, hpush⟩ | ⟨hroom, hpush⟩ := inPush_cases x c b <;> rw [hpush]
  · exact h.faultEntry _ _ _ hb
  · exact h.pushByte x b hroom hb

theorem keeps_ftPush (h : StepInvariant c P) (count : Word) (hb : P b) : P (ftPush count c b).block := by
  obtain ⟨-, hpush⟩ | ⟨hroom, hpush⟩ := ftPush_cases count c b <;> rw [hpush]
  · exact h.faultEntry _ _ _ hb
  · exact h.pushRecord _ b hroom hb

theorem keeps_build (h : StepInvariant c P) (hb : P b) : P (build c b).block := by
  obtain ⟨-, hbuild⟩ | ⟨f, k, -, -, hbuild⟩ | ⟨hne, hcheck, hbuild⟩ := build_cases c b <;> rw [hbuild]
  · exact h.faultEntry _ _ _ (h.invalidateTree b hb)
  · exact h.faultEntry _ _ _ (h.invalidateTree b hb)
  · exact h.storeTree b hne hcheck hb

theorem keeps_genc (h : StepInvariant c P) (hb : P b) : P (genc c b).block := by
  obtain ⟨htree, hgenc⟩ | ⟨-, hgenc⟩ := genc_cases c b <;> rw [hgenc]
  · exact h.storeCodes b htree hb
  · exact h.faultEntry _ _ _ hb

theorem keeps_packChecked (h : StepInvariant c P) (hb : P b) : P (packChecked c b).block := by
  obtain ⟨-, hpack⟩ | ⟨i, -, -, hpack⟩ | ⟨-, -, -, hpack⟩ | ⟨-, -, hfits, hpack⟩ := packChecked_cases c b <;> rw [hpack]
  · exact h.faultEntry _ _ _ hb
  · exact h.faultEntry _ _ _ hb
  · exact h.faultEntry _ _ _ hb
  · exact h.storeContainer b hfits hb

theorem keeps_pack (h : StepInvariant c P) (hb : P b) : P (pack c b).block := by
  obtain ⟨-, hpack⟩ | ⟨-, hpack⟩ := pack_cases c b <;> rw [hpack]
  · exact h.keeps_packChecked (h.invalidateOutput b hb)
  · exact h.faultEntry _ _ _ hb

theorem keeps_parse (h : StepInvariant c P) (hb : P b) : P (parse c b).block := by
  have hdrop := h.dropTable b hb
  obtain ⟨-, hparse⟩ | ⟨-, -, hparse⟩ | ⟨-, -, -, hparse⟩ | ⟨f, k, -, -, -, -, hparse⟩ | ⟨htwo, hcount, hend, hcheck, hparse⟩ :=
    parse_cases c b <;> rw [hparse]
  · exact h.faultEntry _ _ _ hdrop
  · exact h.faultEntry _ _ _ hdrop
  · exact h.faultEntry _ _ _ hdrop
  · exact h.faultEntry _ _ _ hdrop
  · exact h.storeHeader b htwo hcount hend hcheck hb

theorem keeps_finishDecode (h : StepInvariant c P) (out : List Byte) (hout : out.length ≤ c.outCap.toNat) (hb : P b) :
    P (finishDecode out b).block := by
  obtain ⟨-, hfinish⟩ | ⟨-, hfinish⟩ := finishDecode_cases out b <;> rw [hfinish]
  · exact h.faultEntry _ _ _ hb
  · exact h.storeOutput out b hout hb

theorem keeps_decodeStream (h : StepInvariant c P) (hb : P b) : P (decodeStream c b).block := by
  obtain ⟨-, -, hdec⟩ | ⟨-, -, hdec⟩ | ⟨out, -, -, hdec⟩ | ⟨n, start, out, -, -, -, hdec⟩ | ⟨start, out, -, hwalk, hdec⟩ :=
    decodeStream_cases c b <;> rw [hdec]
  · exact h.faultEntry _ _ _ hb
  · exact h.keeps_finishDecode [] (Nat.zero_le _) hb
  · exact h.faultEntry _ _ _ hb
  · exact h.faultEntry _ _ _ hb
  · exact h.keeps_finishDecode out (walkBits_finished_length _ _ _ _ _ _ _ _ _ _ _ (Nat.zero_le _) hwalk) hb

theorem keeps_decodeContainer (h : StepInvariant c P) (hb : P b) : P (decodeContainer c b).block := by
  obtain ⟨-, hdec⟩ | ⟨-, hdec⟩ := decodeContainer_cases c b <;> rw [hdec]
  · have hb := h.invalidateOutput b hb
    obtain ⟨-, hcheck⟩ | ⟨-, -, hcheck⟩ | ⟨-, -, -, hcheck⟩ | ⟨-, -, -, hcheck⟩ :=
      decodeChecked_cases c (Machine.invalidateOutput b) <;> rw [hcheck]
    · exact h.faultEntry _ _ _ hb
    · exact h.faultEntry _ _ _ hb
    · exact h.faultEntry _ _ _ hb
    · exact h.keeps_decodeStream hb
  · exact h.faultEntry _ _ _ hb

theorem keeps_andThen (r : Result) (next : Block → Result) (hr : P r.block)
    (hnext : ∀ {b}, P b → P (next b).block) : P (r.andThen next).block :=
  andThen_block_induction r next P hr fun b hok => hnext (by simpa [hok] using hr)

theorem keeps_compress (h : StepInvariant c P) (hb : P b) : P (compress c b).block := by
  refine keeps_andThen _ _ (keeps_andThen _ _ (h.countInput b hb) fun {b} hb => ?_) h.keeps_pack
  unfold treeAndCodes
  split
  · exact hb
  · exact keeps_andThen _ _ (h.keeps_build hb) h.keeps_genc

theorem keeps_decompress (h : StepInvariant c P) (hb : P b) : P (decompress c b).block := by
  refine keeps_andThen _ _ (keeps_andThen _ _ (h.keeps_parse hb) fun {b} hb => ?_) h.keeps_decodeContainer
  unfold treeOnly
  split
  · exact hb
  · exact h.keeps_build hb

/-- A gated write keeps what its rule keeps. -/
theorem keeps_gated {s : State} (hs : P s.blk) (rule : Config → Block → Result)
    (hrule : ∀ {b}, P b → P (rule s.cfg b).block) : P (s.gated rule).blk :=
  gated_blk_induction s rule P hs fun _ => hrule hs

theorem keeps_exec {s : State} (h : StepInvariant s.cfg P) (hs : P s.blk) (i : Instr) :
    ∃ t, exec i s = .next t ∧ P t.blk := by
  cases i
  case nop => exact ⟨_, rfl, keeps_gated hs nop fun hb => hb⟩
  case srst => exact ⟨_, rfl, h.reset⟩
  case iclr => exact ⟨_, rfl, keeps_gated hs iclr fun hb => h.clearInput _ hb⟩
  case fclr => exact ⟨_, rfl, keeps_gated hs fclr fun hb => h.clearTable _ hb⟩
  case freq => exact ⟨_, rfl, keeps_gated hs freq fun hb => h.countInput _ hb⟩
  case build => exact ⟨_, rfl, keeps_gated hs build h.keeps_build⟩
  case genc => exact ⟨_, rfl, keeps_gated hs genc h.keeps_genc⟩
  case pack => exact ⟨_, rfl, keeps_gated hs pack h.keeps_pack⟩
  case parse => exact ⟨_, rfl, keeps_gated hs parse h.keeps_parse⟩
  case decode => exact ⟨_, rfl, keeps_gated hs decodeContainer h.keeps_decodeContainer⟩
  case compress => exact ⟨_, rfl, keeps_gated hs compress h.keeps_compress⟩
  case decompress => exact ⟨_, rfl, keeps_gated hs decompress h.keeps_decompress⟩
  case cmdIllegal word => exact ⟨_, rfl, keeps_gated hs (illegalCommand word) fun hb => h.faultEntry _ _ _ hb⟩
  case wrInPush x => exact ⟨_, rfl, keeps_gated hs (inPush x) (h.keeps_inPush x)⟩
  case wrFtPush count => exact ⟨_, rfl, keeps_gated hs (ftPush count) (h.keeps_ftPush count)⟩
  case wrInSel | wrFtSym | wrFtSel | wrNodeSel | wrCtSel | wrOutSel => exact ⟨_, rfl, h.select s.blk _ _ _ _ _ _ hs⟩
  all_goals exact ⟨_, rfl, hs⟩

/-- Every step keeps such a predicate: an idle step and a read leave the block, a hard reset resets it, a write is its
rule. -/
theorem keeps_step {s t : State} (h : StepInvariant s.cfg P) (hs : P s.blk) (hstep : step s = .next t) : P t.blk := by
  obtain ⟨-, hidle⟩ | ⟨rest, -, hreset⟩ | ⟨w, rest, -, htrans⟩ := step_cases s
  · obtain rfl : s = t := by simpa [hidle] using hstep
    exact hs
  · obtain rfl : hardReset (s.withPending rest) = t := by simpa [hreset] using hstep
    exact h.reset
  · obtain ⟨u, hexec, hu⟩ := keeps_exec (s := s.withPending rest) h hs (decode w)
    obtain rfl : u = t := by simpa [htrans, hexec] using hstep
    exact hu

end StepInvariant

/-- No step changes the capacities. -/
theorem step_cfg {s t : State} (hstep : step s = .next t) : t.cfg = s.cfg := by
  obtain ⟨u, hnext, hcfg, -⟩ := step_completes s
  obtain rfl : u = t := by simpa [hnext] using hstep
  exact hcfg

end Sys2Proof.Machine
end

section
/-! PROOFS. The family 10_state.md, the tree BUILD makes (43_build.md R190 to R196): what every merge keeps of the arena
and of PQ, and that the finished arena satisfies 10_state.md R50. -/

namespace Sys2Proof.Machine

theorem bitVec_toNat_ofNat_of_lt {w n : Nat} (h : n < 2 ^ w) : (BitVec.ofNat w n).toNat = n := by
  rw [BitVec.toNat_ofNat, Nat.mod_eq_of_lt h]

/-! ## Extraction -/

theorem leastKey_mem (arena : List Node) (pq : List Nat) : ∀ m, leastKey arena m pq ∈ m :: pq := by
  induction pq with
  | nil => exact fun m => List.mem_singleton.2 rfl
  | cons x pq ih =>
    intro m
    simp only [leastKey]
    have hmem := ih (if keyBefore arena x m then x else m)
    split <;> rename_i hkey <;> simp only [hkey, if_true, List.mem_cons] at hmem ⊢ <;> tauto

/-- Extraction splits PQ into one member and the others. -/
theorem extractMin_perm {arena : List Node} {pq pq' : List Nat} {a : Nat} (h : extractMin arena pq = some (a, pq')) :
    pq.Perm (a :: pq') := by
  cases pq with
  | nil => cases h
  | cons m pq =>
    obtain ⟨rfl, rfl⟩ : leastKey arena m pq = a ∧ (m :: pq).erase (leastKey arena m pq) = pq' := by
      simpa [extractMin] using h
    exact List.perm_cons_erase (leastKey_mem arena pq m)

theorem extractMin_singleton (arena : List Node) (x : Nat) : extractMin arena [x] = some (x, []) := by
  simp [extractMin, leastKey]

/-- With two members or more in PQ the loop makes a merge of two of them; with fewer it ends. -/
theorem mergeLoop_cases (fuel : Nat) (arena : List Node) (pq : List Nat) :
    (pq.length ≤ 1 ∧ mergeLoop (fuel + 1) arena pq = (arena, pq))
    ∨ ∃ a b pq2, pq.Perm (a :: b :: pq2)
        ∧ mergeLoop (fuel + 1) arena pq = mergeLoop fuel (arena ++ [mergeNode arena a b]) (pqInsert arena.length pq2) := by
  match pq with
  | [] => exact .inl ⟨Nat.zero_le _, rfl⟩
  | [x] => exact .inl ⟨Nat.le_refl _, by simp [mergeLoop, extractMin, leastKey]⟩
  | x :: y :: rest =>
    obtain ⟨a, pq1, h1⟩ : ∃ a pq1, extractMin arena (x :: y :: rest) = some (a, pq1) := ⟨_, _, rfl⟩
    have hperm1 := extractMin_perm h1
    match pq1, h1, hperm1 with
    | [], _, hperm1 => simp at hperm1
    | m :: ms, h1, hperm1 =>
      obtain ⟨b, pq2, h2⟩ : ∃ b pq2, extractMin arena (m :: ms) = some (b, pq2) := ⟨_, _, rfl⟩
      exact .inr ⟨a, b, pq2, hperm1.trans ((extractMin_perm h2).cons a), by simp [mergeLoop, h1, h2]⟩

/-- What holds of the arena and PQ at the start and is kept by every merge of two members of PQ holds at the end, where
PQ has one member. -/
theorem mergeLoop_induction (P : List Node → List Nat → Prop)
    (hmerge : ∀ arena pq a b pq2, P arena pq → pq.Perm (a :: b :: pq2) →
      P (arena ++ [mergeNode arena a b]) (pqInsert arena.length pq2)) :
    ∀ fuel arena pq, pq ≠ [] → pq.length ≤ fuel + 1 → P arena pq →
      ∃ arena' x, mergeLoop fuel arena pq = (arena', [x]) ∧ P arena' [x] := by
  intro fuel
  induction fuel with
  | zero =>
    intro arena pq hne hfuel hP
    obtain ⟨x, rfl⟩ := List.length_eq_one_iff.1 (Nat.le_antisymm hfuel (List.length_pos_of_ne_nil hne))
    exact ⟨arena, x, rfl, hP⟩
  | succ fuel ih =>
    intro arena pq hne hfuel hP
    obtain ⟨hlen, hend⟩ | ⟨a, b, pq2, hperm, hloop⟩ := mergeLoop_cases fuel arena pq
    · obtain ⟨x, rfl⟩ := List.length_eq_one_iff.1 (Nat.le_antisymm hlen (List.length_pos_of_ne_nil hne))
      exact ⟨arena, x, hend, hP⟩
    · rw [hloop]
      have hlen := hperm.length_eq
      exact ih _ _ (by simp [pqInsert]) (by simp [pqInsert] at hlen ⊢; omega) (hmerge arena pq a b pq2 hP hperm)

/-! ## The arena -/

theorem arenaAt_append_left (arena more : List Node) (i : Nat) (h : i < arena.length) :
    arenaAt (arena ++ more) i = arenaAt arena i :=
  List.getD_append _ _ _ _ h

theorem arenaAt_append_length (arena : List Node) (n : Node) : arenaAt (arena ++ [n]) arena.length = n := by
  simp [arenaAt]

/-- The nodes from index `n` on of which `j` is a child. -/
def arenaParents (n : Nat) (arena : List Node) (j : Nat) : List Nat :=
  (List.range arena.length).filter (fun i =>
    decide (n ≤ i) && (decide ((arenaAt arena i).left.toNat = j) || decide ((arenaAt arena i).right.toNat = j)))

/-- A node added to the arena is a parent of its two children, and the other parents stay. -/
theorem arenaParents_append (n : Nat) (arena : List Node) (x : Node) (j : Nat) (h : n ≤ arena.length) :
    arenaParents n (arena ++ [x]) j
      = arenaParents n arena j ++ if x.left.toNat = j ∨ x.right.toNat = j then [arena.length] else [] := by
  simp only [arenaParents, List.length_append, List.length_singleton, List.range_succ, List.filter_append]
  congr 1
  · refine List.filter_congr fun i hi => ?_
    rw [arenaAt_append_left arena [x] i (List.mem_range.1 hi)]
  · rw [List.filter_singleton, arenaAt_append_length]
    simp [h]

/-- The members of an internal node made at index `i` (10_state.md R49, R50(b)). -/
structure IsMergeAt (arena : List Node) (i : Nat) : Prop where
  leaf : (arenaAt arena i).leaf = false
  sym : (arenaAt arena i).sym = 0
  left_lt : (arenaAt arena i).left.toNat < i
  right_lt : (arenaAt arena i).right.toNat < i
  left_ne_right : (arenaAt arena i).left ≠ (arenaAt arena i).right
  freq : (arenaAt arena i).freq.toNat
    = (arenaAt arena (arenaAt arena i).left.toNat).freq.toNat + (arenaAt arena (arenaAt arena i).right.toNat).freq.toNat

/-- A node made stays as it was made when the arena grows. -/
theorem IsMergeAt.append {arena : List Node} {i : Nat} (h : IsMergeAt arena i) (hi : i < arena.length) (x : Node) :
    IsMergeAt (arena ++ [x]) i := by
  have hl := arenaAt_append_left arena [x] _ (h.left_lt.trans hi)
  have hr := arenaAt_append_left arena [x] _ (h.right_lt.trans hi)
  obtain ⟨hleaf, hsym, hleft, hright, hne, hfreq⟩ := h
  constructor <;> rw [arenaAt_append_left arena [x] i hi]
  · exact hleaf
  · exact hsym
  · exact hleft
  · exact hright
  · exact hne
  · rw [hl, hr]; exact hfreq

/-- The frequency of a merge is the sum, exact below 2^40 (43_build.md R194). -/
theorem mergeNode_freq (arena : List Node) (a b : Nat)
    (hsum : (arenaAt arena a).freq.toNat + (arenaAt arena b).freq.toNat < 2 ^ 40) :
    (mergeNode arena a b).freq.toNat = (arenaAt arena a).freq.toNat + (arenaAt arena b).freq.toNat := by
  rw [mergeNode, BitVec.toNat_add, Nat.mod_eq_of_lt hsum]

/-- The node of a merge of two nodes of the arena, when the frequencies sum without a carry out. -/
theorem isMergeAt_mergeNode (arena : List Node) (a b : Nat) (ha : a < arena.length) (hb : b < arena.length)
    (hab : a ≠ b) (hlen : arena.length ≤ 2 ^ 9)
    (hsum : (arenaAt arena a).freq.toNat + (arenaAt arena b).freq.toNat < 2 ^ 40) :
    IsMergeAt (arena ++ [mergeNode arena a b]) arena.length := by
  have hleft : (BitVec.ofNat 9 a).toNat = a := bitVec_toNat_ofNat_of_lt (by omega)
  have hright : (BitVec.ofNat 9 b).toNat = b := bitVec_toNat_ofNat_of_lt (by omega)
  constructor <;> rw [arenaAt_append_length]
  · rfl
  · rfl
  · simpa only [mergeNode, hleft] using ha
  · simpa only [mergeNode, hright] using hb
  · intro heq
    exact hab (by rw [← hleft, ← hright]; exact congrArg BitVec.toNat heq)
  · rw [mergeNode_freq arena a b hsum]
    simp only [mergeNode, hleft, hright, arenaAt_append_left arena _ _ ha, arenaAt_append_left arena _ _ hb]

/-! ## What every merge keeps -/

/-- The arena and PQ while BUILD runs on `recs`: the leaves, the nodes merged so far, PQ as the nodes without a parent,
and the total of the waiting frequencies (43_build.md R190 to R194). -/
structure MergeInv (recs : List FtRecord) (arena : List Node) (pq : List Nat) : Prop where
  size : arena.length + pq.length = 2 * recs.length
  pos : recs.length ≤ arena.length
  leaves : ∀ (k : Nat) (h : k < recs.length), arenaAt arena k = leafOf recs[k]
  merges : ∀ i, recs.length ≤ i → i < arena.length → IsMergeAt arena i
  nodup : pq.Nodup
  bound : ∀ x ∈ pq, x < arena.length
  parents : ∀ j < arena.length, (arenaParents recs.length arena j).length = if j ∈ pq then 0 else 1
  total : (pq.map (fun x => (arenaAt arena x).freq.toNat)).sum = totalOf recs

theorem totalOf_lt (recs : List FtRecord) (h : recs.length ≤ 256) : totalOf recs < 2 ^ 40 := by
  have hsum : totalOf recs ≤ (recs.map (fun r => r.cnt.toNat)).length • (2 ^ 32 - 1) := by
    refine List.sum_le_card_nsmul _ _ fun x hx => ?_
    obtain ⟨r, -, rfl⟩ := List.mem_map.1 hx
    exact Nat.le_sub_one_of_lt r.cnt.isLt
  simp only [List.length_map, smul_eq_mul] at hsum
  omega

/-- The leaves alone, all of them waiting (43_build.md R191). -/
theorem mergeInv_leaves (recs : List FtRecord) : MergeInv recs (recs.map leafOf) (List.range recs.length) where
  size := by simp; omega
  pos := by simp
  leaves k h := by simp [arenaAt, h]
  merges i hi hlt := by simp at hlt; omega
  nodup := List.nodup_range
  bound x hx := by simpa using hx
  parents j hj := by
    have hj : j < recs.length := by simpa using hj
    rw [if_pos (List.mem_range.2 hj), List.length_eq_zero_iff, arenaParents, List.filter_eq_nil_iff]
    intro i hi
    have hi : i < recs.length := by simpa using hi
    simp [hi]
  total := by
    have hfreq : (List.range recs.length).map (fun x => (arenaAt (recs.map leafOf) x).freq.toNat)
        = recs.map (fun r => r.cnt.toNat) := by
      refine List.ext_getElem (by simp) fun i h1 h2 => ?_
      have hi : i < recs.length := by simpa using h2
      have hlt : recs[i].cnt.toNat < 2 ^ 40 := recs[i].cnt.isLt.trans (by decide)
      simpa [arenaAt, hi, leafOf] using hlt
    rw [hfreq, totalOf]

/-- The last node of the arena, and an index beyond it, is the child of no node. -/
theorem MergeInv.arenaParents_last {recs : List FtRecord} {arena : List Node} {pq : List Nat}
    (h : MergeInv recs arena pq) {j : Nat} (hj : arena.length ≤ j + 1) : arenaParents recs.length arena j = [] := by
  rw [arenaParents, List.filter_eq_nil_iff]
  intro i hi hparent
  have hi : i < arena.length := List.mem_range.1 hi
  simp only [Bool.and_eq_true, Bool.or_eq_true, decide_eq_true_eq] at hparent
  have hmerge := h.merges i hparent.1 hi
  have hleft := hmerge.left_lt
  have hright := hmerge.right_lt
  omega

/-- A merge of two waiting nodes keeps the invariant (43_build.md R192, R194). -/
theorem MergeInv.merge {recs : List FtRecord} (hcap : recs.length ≤ 256) {arena : List Node} {pq : List Nat} {a b : Nat}
    {pq2 : List Nat} (h : MergeInv recs arena pq) (hperm : pq.Perm (a :: b :: pq2)) :
    MergeInv recs (arena ++ [mergeNode arena a b]) (pqInsert arena.length pq2) := by
  have hlen := hperm.length_eq
  simp only [List.length_cons] at hlen
  have hsize := h.size
  have hpos := h.pos
  have hnodup : (a :: b :: pq2).Nodup := hperm.nodup_iff.1 h.nodup
  simp only [List.nodup_cons, List.mem_cons, not_or] at hnodup
  obtain ⟨⟨hab, ha2⟩, hb2, hnodup2⟩ := hnodup
  have ha : a < arena.length := h.bound a (hperm.mem_iff.2 (by simp))
  have hb : b < arena.length := h.bound b (hperm.mem_iff.2 (by simp))
  have hbound2 : ∀ x ∈ pq2, x < arena.length := fun x hx => h.bound x (hperm.mem_iff.2 (by simp [hx]))
  have htotal : (arenaAt arena a).freq.toNat + ((arenaAt arena b).freq.toNat
      + (pq2.map (fun x => (arenaAt arena x).freq.toNat)).sum) = totalOf recs := by
    rw [← h.total, (hperm.map _).sum_eq]; rfl
  have hsum : (arenaAt arena a).freq.toNat + (arenaAt arena b).freq.toNat < 2 ^ 40 := by
    have := totalOf_lt recs hcap
    omega
  have hmerge : IsMergeAt (arena ++ [mergeNode arena a b]) arena.length :=
    isMergeAt_mergeNode arena a b ha hb hab (by omega) hsum
  constructor
  case size => simp [pqInsert]; omega
  case pos => simp; omega
  case leaves =>
    intro k hk
    rw [arenaAt_append_left _ _ _ (by omega), h.leaves k hk]
  case merges =>
    intro i hi hlt
    by_cases hnew : i = arena.length
    · exact hnew ▸ hmerge
    · have hold : i < arena.length := by simp at hlt; omega
      exact (h.merges i hi hold).append hold _
  case nodup =>
    refine List.nodup_append.2 ⟨hnodup2, by simp, fun x hx y hy => ?_⟩
    have := hbound2 x hx
    simp at hy
    omega
  case bound =>
    intro x hx
    simp only [pqInsert, List.mem_append, List.mem_singleton, List.length_append, List.length_singleton] at hx ⊢
    rcases hx with hx | rfl
    · exact (hbound2 x hx).trans (Nat.lt_succ_self _)
    · exact Nat.lt_succ_self _
  case parents =>
    intro j hj
    have hleft : (mergeNode arena a b).left.toNat = a := bitVec_toNat_ofNat_of_lt (by omega)
    have hright : (mergeNode arena a b).right.toNat = b := bitVec_toNat_ofNat_of_lt (by omega)
    rw [arenaParents_append _ _ _ _ hpos, hleft, hright, List.length_append]
    by_cases hnew : j = arena.length
    · subst hnew
      have hnoa : ¬a = arena.length := by omega
      have hnob : ¬b = arena.length := by omega
      rw [h.arenaParents_last (Nat.le_succ _)]
      simp [pqInsert, hnoa, hnob]
    · have hold : j < arena.length := by simp at hj; omega
      have hmem : j ∈ pq ↔ j = a ∨ j = b ∨ j ∈ pq2 := by rw [hperm.mem_iff]; simp
      rw [h.parents j hold]
      simp only [hmem, pqInsert, List.mem_append, List.mem_singleton, hnew, or_false]
      by_cases hja : j = a
      · subst hja; simp [ha2]
      · by_cases hjb : j = b
        · subst hjb; simp [hb2]
        · simp [hja, hjb, Ne.symm hja, Ne.symm hjb]
  case total =>
    have hold : pq2.map (fun x => (arenaAt (arena ++ [mergeNode arena a b]) x).freq.toNat)
        = pq2.map (fun x => (arenaAt arena x).freq.toNat) :=
      List.map_congr_left fun x hx => by rw [arenaAt_append_left _ _ _ (hbound2 x hx)]
    rw [pqInsert, List.map_append, List.sum_append, hold, List.map_singleton, List.sum_singleton,
      arenaAt_append_length, mergeNode_freq arena a b hsum]
    omega

/-! ## The finished arena -/

theorem buildTree_of_two_le (recs : List FtRecord) (h : 2 ≤ recs.length) :
    buildTree recs
      = ((mergeLoop recs.length (recs.map leafOf) (List.range recs.length)).1,
        ((extractMin (mergeLoop recs.length (recs.map leafOf) (List.range recs.length)).1
          (mergeLoop recs.length (recs.map leafOf) (List.range recs.length)).2).map Prod.fst).getD 0) := by
  match recs, h with
  | _ :: _ :: _, _ => rfl

/-- BUILD of two records or more ends with the root alone in PQ. -/
theorem buildTree_mergeInv (recs : List FtRecord) (htwo : 2 ≤ recs.length) (hcap : recs.length ≤ 256) :
    MergeInv recs (buildTree recs).1 [(buildTree recs).2] := by
  have hne : List.range recs.length ≠ [] := by simp; rintro rfl; simp at htwo
  obtain ⟨arena, x, hloop, hinv⟩ := mergeLoop_induction (MergeInv recs) (fun _ _ _ _ _ h => h.merge hcap)
    recs.length _ _ hne (by simp) (mergeInv_leaves recs)
  rw [buildTree_of_two_le recs htwo, hloop]
  simpa [extractMin_singleton] using hinv

theorem buildTree_length (recs : List FtRecord) (htwo : 2 ≤ recs.length) (hcap : recs.length ≤ 256) :
    (buildTree recs).1.length = 2 * recs.length - 1 := by
  have hsize := (buildTree_mergeInv recs htwo hcap).size
  simp only [List.length_singleton] at hsize
  omega

/-- The arena of a table of 1 to 256 records has 2 to 511 nodes (10_state.md R49). -/
theorem buildTree_length_lt (recs : List FtRecord) (hpos : 0 < recs.length) (hcap : recs.length ≤ 256) :
    (buildTree recs).1.length < 2 ^ 9 := by
  match recs, hpos with
  | [r], _ => simp [buildTree]
  | r :: q :: rest, _ =>
    have hlen := buildTree_length (r :: q :: rest) (by simp) hcap
    simp only [List.length_cons] at hlen hcap
    omega

/-- The root, alone in PQ at the end, is the node of the last merge. -/
theorem buildTree_root (recs : List FtRecord) (htwo : 2 ≤ recs.length) (hcap : recs.length ≤ 256) :
    (buildTree recs).2 = 2 * recs.length - 2 := by
  have hinv := buildTree_mergeInv recs htwo hcap
  have hlen := buildTree_length recs htwo hcap
  by_contra hroot
  have hcount := hinv.parents (2 * recs.length - 2) (by omega)
  rw [hinv.arenaParents_last (by omega), if_neg (by simpa using Ne.symm hroot)] at hcount
  simp at hcount

theorem storeTree_nodeNum (t : List Node × Nat) (b : Block) (i : Nat) : (storeTree t b).nodeNum i = arenaAt t.1 i :=
  cells_read_ofList t.1 i

theorem storeTree_record (t : List Node × Nat) (b : Block) (k : Nat) : (storeTree t b).record k = b.record k := rfl

theorem record_eq_getElem (b : Block) (k : Nat) (h : k < b.records.length) : b.record k = b.records[k] := by
  simp [Block.records, Block.record, cells_slice_getElem]

/-- The nodes stored at the leaves' indices satisfy 10_state.md R50(a). -/
theorem leavesInv_storeTree (t : List Node × Nat) (b : Block)
    (h : ∀ k < b.ftCount.toNat, arenaAt t.1 k = leafOf (b.record k)) : leavesInv (storeTree t b) := by
  intro k hk
  rw [storeTree_nodeNum, h k hk]
  exact ⟨rfl, rfl, rfl, rfl, rfl⟩

/-- A node as a merge made it satisfies 10_state.md R50(b). -/
theorem internalInv_storeTree (t : List Node × Nat) (b : Block) (i : Nat) (h : IsMergeAt t.1 i) :
    internalInv (storeTree t b) i := by
  have hat : ∀ j : NodeIndex, (storeTree t b).nodeAt j = arenaAt t.1 j.toNat := fun j => storeTree_nodeNum t b j.toNat
  simp only [internalInv, storeTree_nodeNum, hat]
  exact ⟨h.leaf, h.sym, h.left_lt, h.right_lt, h.left_ne_right,
    BitVec.eq_of_toNat_eq (by rw [BitVec.toNat_add, ← h.freq, Nat.mod_eq_of_lt (BitVec.isLt _)])⟩

theorem storeTree_parentsOf (t : List Node × Nat) (b : Block) (j : Nat) (h : t.1.length = 2 * b.ftCount.toNat - 1) :
    (storeTree t b).parentsOf j = arenaParents b.ftCount.toNat t.1 j := by
  rw [Block.parentsOf, arenaParents, h]
  exact List.filter_congr fun i _ => by rw [storeTree_nodeNum, storeTree_ftCount]

/-- The arena BUILD makes of two records or more satisfies 10_state.md R50. -/
theorem arenaInv_storeTree_of_two_le (b : Block) (htwo : 2 ≤ b.ftCount.toNat) (hcap : b.ftCount.toNat ≤ 256) :
    arenaInv (storeTree (buildTree b.records) b) := by
  have hrecs : b.records.length = b.ftCount.toNat := records_length b
  have hinv := buildTree_mergeInv b.records (by omega) (by omega)
  have hlen := buildTree_length b.records (by omega) (by omega)
  have hroot := buildTree_root b.records (by omega) (by omega)
  have hcount : (BitVec.ofNat 9 (buildTree b.records).1.length).toNat = 2 * b.ftCount.toNat - 1 := by
    rw [bitVec_toNat_ofNat_of_lt (by omega)]; omega
  have hrootNum : (BitVec.ofNat 9 (buildTree b.records).2).toNat = 2 * b.ftCount.toNat - 2 := by
    rw [bitVec_toNat_ofNat_of_lt (by omega)]; omega
  have hrootAt : (storeTree (buildTree b.records) b).nodeAt (BitVec.ofNat 9 (buildTree b.records).2)
      = arenaAt (buildTree b.records).1 (buildTree b.records).2 := by
    rw [Block.nodeAt, hrootNum, hroot, hrecs]
    exact storeTree_nodeNum _ _ _
  have hmerges : ∀ i < 2 * b.ftCount.toNat - 1, b.ftCount.toNat ≤ i → IsMergeAt (buildTree b.records).1 i :=
    fun i hi hge => hinv.merges i (by omega) (by omega)
  refine ⟨by rw [storeTree_ftCount]; omega, leavesInv_storeTree _ b fun k hk => ?_, fun _ => ?_, fun hone => ?_, ?_, ?_⟩
  · rw [hinv.leaves k (by omega), record_eq_getElem b k (by omega)]
  · refine ⟨hcount, hrootNum, fun i hi hge => internalInv_storeTree _ b i (hmerges i hi hge), fun j hj => ?_⟩
    rw [storeTree_ftCount] at hj
    rw [storeTree_parentsOf _ b j (by omega), ← hrecs, hinv.parents j (by omega), if_neg (by simp; omega)]
  · rw [storeTree_ftCount] at hone
    omega
  · have htotal := hinv.total
    simp only [List.map_singleton, List.sum_singleton] at htotal
    rw [storeTree_root, hrootAt]
    refine BitVec.eq_of_toNat_eq (htotal.trans ?_)
    exact (bitVec_toNat_ofNat_of_lt (totalOf_lt b.records (by omega))).symm
  · rw [storeTree_root, hrootAt]
    exact (hmerges _ (by omega) (by omega)).leaf

/-- The arena BUILD makes of one record satisfies 10_state.md R50 (c). -/
theorem arenaInv_storeTree_of_one (b : Block) (hone : b.ftCount.toNat = 1) :
    arenaInv (storeTree (buildTree b.records) b) := by
  obtain ⟨r, hr⟩ := List.length_eq_one_iff.1 ((records_length b).trans hone)
  have hrecord : b.record 0 = r := by
    rw [record_eq_getElem b 0 (by simp [hr])]
    simp [hr]
  have htree : buildTree b.records = ([leafOf r, syntheticRoot (leafOf r)], 1) := by rw [hr]; rfl
  have hrootAt : (storeTree ([leafOf r, syntheticRoot (leafOf r)], 1) b).nodeAt
      (storeTree ([leafOf r, syntheticRoot (leafOf r)], 1) b).root = syntheticRoot (leafOf r) := storeTree_nodeNum _ b 1
  rw [htree]
  refine ⟨Nat.le_of_eq hone.symm, leavesInv_storeTree _ b fun k hk => ?_, fun htwo => ?_, fun _ => ?_, ?_, ?_⟩
  · obtain rfl : k = 0 := by omega
    rw [hrecord]; rfl
  · rw [storeTree_ftCount] at htwo
    omega
  · simp only [singleInv, storeTree_nodeNum]
    exact ⟨rfl, rfl, rfl, rfl, rfl, rfl, rfl⟩
  · have htotal : (storeTree ([leafOf r, syntheticRoot (leafOf r)], 1) b).ftTotal = BitVec.ofNat 40 r.cnt.toNat := by
      simp [Block.ftTotal, hr, totalOf]
    rw [hrootAt, htotal]
    exact (BitVec.ofNat_toNat 40 r.cnt).symm
  · rw [hrootAt]
    rfl

/-- BUILD of a table of 1 to 256 records makes an arena that satisfies 10_state.md R50. -/
theorem arenaInv_storeTree (b : Block) (hne : b.ftCount ≠ 0) (hcap : b.ftCount.toNat ≤ 256) :
    arenaInv (storeTree (buildTree b.records) b) := by
  have hpos : b.ftCount.toNat ≠ 0 := fun h => hne (BitVec.eq_of_toNat_eq h)
  by_cases hone : b.ftCount.toNat = 1
  · exact arenaInv_storeTree_of_one b hone
  · exact arenaInv_storeTree_of_two_le b (by omega) hcap

end Sys2Proof.Machine
end

section
/-! PROOFS. The family 10_state.md, the invariants: R70, what the valid flags say (R34), and the canonical storage. -/

namespace Sys2Proof.Machine

/-! ## Lengths that their registers hold -/

theorem ofNat_le_of_le {w : Nat} {n : Nat} {x : BitVec w} (h : n ≤ x.toNat) : BitVec.ofNat w n ≤ x := by
  rw [BitVec.le_def, bitVec_toNat_ofNat_of_lt (h.trans_lt x.isLt)]
  exact h

/-- A register below its capacity counts one further without wrapping. -/
theorem toNat_add_one_of_lt {w : Nat} {x y : BitVec w} (h : x < y) : (x + 1).toNat = x.toNat + 1 := by
  have hlt : x.toNat < y.toNat := h
  have hy := y.isLt
  have hone : (1 : BitVec w).toNat = 1 := bitVec_toNat_ofNat_of_lt (n := 1) (by omega)
  rw [BitVec.toNat_add, hone, Nat.mod_eq_of_lt (by omega)]

theorem inLen_lt_inCap (c : Config) (b : Block) (h : b.inLen ≤ c.inCap) (hroom : b.inLen ≠ c.inCap) :
    b.inLen < c.inCap :=
  Nat.lt_of_le_of_ne h fun heq => hroom (BitVec.eq_of_toNat_eq heq)

theorem ftCount_add_one (b : Block) (h : b.ftCount.toNat ≤ 256) (hroom : b.ftCount ≠ 256) :
    b.ftCount.toNat < 256 ∧ (b.ftCount + 1).toNat = b.ftCount.toNat + 1 := by
  have hne : b.ftCount.toNat ≠ 256 := fun heq => hroom (BitVec.eq_of_toNat_eq heq)
  have hlt : b.ftCount.toNat < 256 := by omega
  exact ⟨hlt, toNat_add_one_of_lt (y := 256) hlt⟩

theorem countRecords_length (input : List Byte) : (countRecords input).length ≤ 256 :=
  (List.length_filter_le _ _).trans (by simp)

@[simp] theorem headerRecords_length (b : Block) : (headerRecords b).length = headerCount b := by simp [headerRecords]

theorem code_ne_zero (f : FaultKind) : f.code ≠ 0 := by cases f <;> decide

/-! ## The global invariants (R70) -/

theorem inLen_le_of_globalInv {c : Config} {b : Block} (h : globalInv c b) : b.inLen ≤ c.inCap := by
  obtain ⟨-, -, -, -, -, -, -, hin, -⟩ := h
  exact hin

theorem ftCount_le_of_globalInv {c : Config} {b : Block} (h : globalInv c b) : b.ftCount.toNat ≤ 256 := by
  obtain ⟨-, -, -, -, -, -, -, -, -, hft⟩ := h
  exact hft

theorem storeHeader_record (b b' : Block) (k : Nat) (h : k < headerCount b) :
    (storeHeader (headerRecords b) b').record k = headerRecord b k := by
  rw [Block.record, storeHeader_ft, cells_read_ofList]
  simp [headerRecords, h]

/-- A parsed header agrees with the container it was parsed from (R70 (c)). -/
theorem headerInv_storeHeader (b : Block) (hcount : headerCount b ≤ 256)
    (hend : headerEnd (headerCount b) ≤ b.inLen.toNat) (hcheck : ftCheck (headerRecords b) = none) :
    headerInv (storeHeader (headerRecords b) (dropTable b)) := by
  have hcountNum : (BitVec.ofNat 9 (headerRecords b).length).toNat = headerCount b := by
    rw [headerRecords_length, bitVec_toNat_ofNat_of_lt (by omega)]
  have hendNum : (BitVec.ofNat 32 (headerEnd (headerRecords b).length)).toNat = 2 + 5 * headerCount b := by
    rw [headerRecords_length, headerEnd, bitVec_toNat_ofNat_of_lt (by omega)]
  simp only [headerInv, storeHeader_hdrEnd, storeHeader_ftCount, storeHeader_inLen, dropTable_inLen, hendNum, hcountNum]
  refine ⟨trivial, hend, ?_, fun k hk => storeHeader_record b _ k hk⟩
  rw [storeHeader_records _ _ (by simpa using hcount)]
  exact (ftCheck_none _).1 hcheck

/-- Each elementary change of the block keeps the global invariants of 10_state.md R70. -/
theorem stepInvariant_globalInv (c : Config) : StepInvariant c (globalInv c) where
  reset :=
    ⟨nofun, nofun, nofun, by decide, fun _ => ⟨rfl, rfl, rfl⟩, fun _ => rfl, fun _ => ⟨rfl, rfl⟩, Nat.zero_le _,
      Nat.zero_le _, Nat.zero_le _⟩
  select b _ _ _ _ _ _ h := h
  faultEntry f info b h := by
    obtain ⟨hct, htree, hhdr, -, hrest⟩ := h
    exact ⟨hct, htree, hhdr, iff_of_true rfl (code_ne_zero f), hrest⟩
  invalidateTree b h := by
    obtain ⟨-, -, hhdr, herr, hout, hend, -, hrest⟩ := h
    exact ⟨nofun, nofun, hhdr, herr, hout, hend, fun _ => ⟨rfl, rfl⟩, hrest⟩
  invalidateOutput b h := by
    obtain ⟨hct, htree, hhdr, herr, -, hend, hnode, hin, -, hft⟩ := h
    exact ⟨hct, htree, hhdr, herr, fun _ => ⟨rfl, rfl, rfl⟩, hend, hnode, hin, Nat.zero_le _, hft⟩
  dropTable b h := by
    obtain ⟨-, -, -, herr, hout, -, -, hin, houtLen, -⟩ := h
    exact ⟨nofun, nofun, nofun, herr, hout, fun _ => rfl, fun _ => ⟨rfl, rfl⟩, hin, houtLen, Nat.zero_le _⟩
  pushByte x b hroom h := by
    obtain ⟨hct, htree, -, herr, hout, -, hnode, hin, houtLen, hft⟩ := h
    have hlt := inLen_lt_inCap c b hin hroom
    refine ⟨hct, htree, nofun, herr, hout, fun _ => rfl, hnode, ?_, houtLen, hft⟩
    show (b.inLen + 1).toNat ≤ c.inCap.toNat
    rw [toNat_add_one_of_lt hlt]
    exact hlt
  pushRecord r b hroom h := by
    obtain ⟨-, -, -, herr, hout, -, -, hin, houtLen, hft⟩ := h
    obtain ⟨hlt, hnext⟩ := ftCount_add_one b hft hroom
    exact ⟨nofun, nofun, nofun, herr, hout, fun _ => rfl, fun _ => ⟨rfl, rfl⟩, hin, houtLen, hnext.trans_le hlt⟩
  clearInput b h := by
    obtain ⟨hct, htree, -, herr, hout, -, hnode, -, houtLen, hft⟩ := h
    exact ⟨hct, htree, nofun, herr, hout, fun _ => rfl, hnode, Nat.zero_le _, houtLen, hft⟩
  clearTable b h := by
    obtain ⟨-, -, -, herr, hout, -, -, hin, houtLen, -⟩ := h
    exact ⟨nofun, nofun, nofun, herr, hout, fun _ => rfl, fun _ => ⟨rfl, rfl⟩, hin, houtLen, Nat.zero_le _⟩
  countInput b h := by
    obtain ⟨-, -, -, herr, hout, -, -, hin, houtLen, -⟩ := h
    refine ⟨nofun, nofun, nofun, herr, hout, fun _ => rfl, fun _ => ⟨rfl, rfl⟩, hin, houtLen, ?_⟩
    exact (BitVec.toNat_ofNat _ _).trans_le ((Nat.mod_le _ _).trans (countRecords_length b.input))
  storeTree b hne hcheck h := by
    obtain ⟨-, -, hhdr, herr, hout, hend, -, hin, houtLen, hft⟩ := h
    exact ⟨nofun, fun _ => ⟨(ftCheck_none _).1 hcheck, arenaInv_storeTree b hne hft⟩, hhdr, herr, hout, hend, nofun,
      hin, houtLen, hft⟩
  storeCodes b htreeValid h := by
    obtain ⟨-, htree, hrest⟩ := h
    exact ⟨fun _ => htreeValid, htree, hrest⟩
  storeContainer b hfits h := by
    obtain ⟨hct, htree, hhdr, herr, -, hend, hnode, hin, -, hft⟩ := h
    exact ⟨hct, htree, hhdr, herr, nofun, hend, hnode, hin, ofNat_le_of_le hfits, hft⟩
  storeHeader b _ hcount hend hcheck h := by
    obtain ⟨-, -, -, herr, hout, -, -, hin, houtLen, -⟩ := h
    refine ⟨nofun, nofun, fun _ => headerInv_storeHeader b hcount hend hcheck, herr, hout, nofun,
      fun _ => ⟨rfl, rfl⟩, hin, houtLen, ?_⟩
    exact (BitVec.toNat_ofNat _ _).trans_le ((Nat.mod_le _ _).trans (by simpa using hcount))
  storeOutput out b hfits h := by
    obtain ⟨hct, htree, hhdr, herr, -, hend, hnode, hin, -, hft⟩ := h
    exact ⟨hct, htree, hhdr, herr, nofun, hend, hnode, hin, ofNat_le_of_le hfits, hft⟩

end Sys2Proof.Machine

open Sys2Proof.Machine

/-- Settles O56: each elementary change of the block keeps R70 (`stepInvariant_globalInv`), the tree's part because the
merges of BUILD leave the root alone without a parent (`MergeInv.merge`, `arenaInv_storeTree`). -/
theorem stepKeepsTheGlobalInvariants : Obligations.StepKeepsTheGlobalInvariants := by
  unfold Obligations.StepKeepsTheGlobalInvariants
  intro s t hs hstep
  rw [step_cfg hstep]
  exact (stepInvariant_globalInv s.cfg).keeps_step hs hstep

end

section
/-! PROOFS. The family 10_state.md, what the valid flags say (R34), the canonical storage, and reset. -/

namespace Sys2Proof.Machine

/-! ## What the valid flags say (R34) -/

/-- Each elementary change of the block keeps what the valid flags say. -/
theorem stepInvariant_flagsFaithful (c : Config) : StepInvariant c flagsFaithful where
  reset := ⟨nofun, nofun, nofun⟩
  select _ _ _ _ _ _ _ h := h
  faultEntry _ _ _ h := h
  invalidateTree _ h := by
    obtain ⟨-, -, hhdr⟩ := h
    exact ⟨nofun, nofun, hhdr⟩
  invalidateOutput _ h := h
  dropTable _ _ := ⟨nofun, nofun, nofun⟩
  pushByte _ _ _ h := by
    obtain ⟨hct, htree, -⟩ := h
    exact ⟨hct, htree, nofun⟩
  pushRecord _ _ _ _ := ⟨nofun, nofun, nofun⟩
  clearInput _ h := by
    obtain ⟨hct, htree, -⟩ := h
    exact ⟨hct, htree, nofun⟩
  clearTable _ _ := ⟨nofun, nofun, nofun⟩
  countInput _ _ := ⟨nofun, nofun, nofun⟩
  storeTree _ hne hcheck h := by
    obtain ⟨-, -, hhdr⟩ := h
    exact ⟨nofun, fun _ => ⟨hne, hcheck, rfl, rfl, rfl⟩, hhdr⟩
  storeCodes _ htreeValid h := by
    obtain ⟨-, htree, hhdr⟩ := h
    exact ⟨fun _ => ⟨htreeValid, rfl⟩, htree, hhdr⟩
  storeContainer _ _ h := h
  storeHeader b htwo hcount hend hcheck _ := by
    refine ⟨nofun, nofun, fun _ => ⟨htwo, hcount, hend, hcheck, storeHeader_records _ _ (by simpa using hcount), ?_⟩⟩
    rw [storeHeader_hdrEnd, headerRecords_length]
    exact bitVec_toNat_ofNat_of_lt (hend.trans_lt b.inLen.isLt)
  storeOutput _ _ _ h := h

/-! ## The canonical storage -/

theorem recordCode_wf (sym : Byte) (path : List Bool) (ct : Cells CtEntry) (h : Cells.wf noCode ct = true) :
    Cells.wf noCode (recordCode sym path ct) = true := by
  unfold recordCode
  split
  · exact h
  · exact cells_wf_write ct _ _ h

theorem recordCode_below (sym : Byte) (path : List Bool) (ct : Cells CtEntry) (h : Cells.below 256 ct = true) :
    Cells.below 256 (recordCode sym path ct) = true := by
  unfold recordCode
  split
  · exact h
  · exact cells_below_write ct _ _ _ h sym.isLt

/-- The walk of GENC keeps what recording a code keeps. -/
theorem walk_induction (P : Cells CtEntry → Prop) (hrecord : ∀ sym path ct, P ct → P (recordCode sym path ct))
    (node : Cells Node) (depth : Nat) : ∀ n path ct, P ct → P (walk node depth n path ct) := by
  induction depth with
  | zero => exact fun _ _ _ h => h
  | succ depth ih =>
    intro n path ct h
    simp only [walk]
    split
    · exact hrecord _ _ _ h
    · exact ih _ _ _ (ih _ _ _ h)

theorem codesOf_wf (node : Cells Node) (root : NodeIndex) : Cells.wf noCode (codesOf node root) = true :=
  walk_induction (fun ct => Cells.wf noCode ct = true) recordCode_wf node _ root [] [] rfl

theorem codesOf_below (node : Cells Node) (root : NodeIndex) : Cells.below 256 (codesOf node root) = true :=
  walk_induction (fun ct => Cells.below 256 ct = true) recordCode_below node _ root [] [] rfl

theorem memWrite_below (m : Memory) (a n v k : Nat) (h : Cells.below k m = true) (hk : a + n ≤ k) :
    Cells.below k (memWrite m a n v) = true :=
  cells_below_writeList _ m a k h (by simpa using hk)

theorem writeRecords_wf (recs : List FtRecord) :
    ∀ (m : Memory) (k : Nat), Memory.wf m = true → Memory.wf (writeRecords m k recs) = true := by
  induction recs with
  | nil => exact fun _ _ h => h
  | cons r recs ih => exact fun m k h => ih _ _ (memory_wf_memWrite _ _ _ _ (memory_wf_write m _ _ h))

theorem writeRecords_below (recs : List FtRecord) (n : Nat) : ∀ (m : Memory) (k : Nat), Cells.below n m = true →
    2 + 5 * (k + recs.length) ≤ n → Cells.below n (writeRecords m k recs) = true := by
  induction recs with
  | nil => exact fun _ _ h _ => h
  | cons r recs ih =>
    intro m k h hn
    simp only [List.length_cons] at hn
    refine ih _ _ (memWrite_below _ _ _ _ _ (cells_below_write m n _ _ h (by omega)) (by omega)) (by omega)

theorem packedString_length (b : Block) :
    (packedString b).length = 8 + (dataLength b + padOf (dataLength b)) := by
  simp [packedString, dataBits_length]

theorem containerMemory_wf (b : Block) : Memory.wf (containerMemory b) = true :=
  cells_wf_writeList _ _ _ (writeRecords_wf _ _ _ (memory_wf_memWrite _ _ _ _ rfl))

/-- A container is listed below its size (45_pack.md R220). -/
theorem containerMemory_below (b : Block) : Cells.below (containerSize b) (containerMemory b) = true := by
  have hmod := add_padOf_mod (dataLength b)
  have hlen := packBits_length (packedString b) (by rw [packedString_length]; omega)
  rw [packedString_length] at hlen
  have hrecs := records_length b
  refine cells_below_writeList _ _ _ _ (writeRecords_below _ _ _ _ (memWrite_below _ _ _ _ _ rfl ?_) ?_) ?_
  all_goals unfold containerSize; omega

/-- A list stored whole is canonical, and is listed below its length as its register holds it. -/
theorem ofList_canonical {α : Type} [DecidableEq α] {d : α} {w : Nat} (l : List α) (h : l.length < 2 ^ w) :
    Cells.wf d (Cells.ofList d l) = true
      ∧ Cells.below (BitVec.ofNat w l.length).toNat (Cells.ofList d l) = true := by
  rw [bitVec_toNat_ofNat_of_lt h]
  exact ⟨cells_wf_ofList l, cells_below_ofList l⟩

/-- Dropping the tree's cells keeps the storage canonical. -/
theorem storageInv_invalidateTree (b : Block) (h : storageInv b) : storageInv (invalidateTree b) := by
  obtain ⟨hin, hft, -, -, hout⟩ := h
  exact ⟨hin, hft, ⟨rfl, rfl⟩, ⟨rfl, rfl, fun _ => rfl⟩, hout⟩

/-- Each elementary change of the block keeps the storage canonical, as long as the global invariants hold too. -/
theorem stepInvariant_storageInv (c : Config) : StepInvariant c (fun b => globalInv c b ∧ storageInv b) where
  reset := ⟨(stepInvariant_globalInv c).reset, ⟨rfl, rfl⟩, ⟨rfl, rfl⟩, ⟨rfl, rfl⟩, ⟨rfl, rfl, fun _ => rfl⟩, ⟨rfl, rfl⟩⟩
  select _ _ _ _ _ _ _ h := h
  faultEntry f info b := fun ⟨hg, hs⟩ => ⟨(stepInvariant_globalInv c).faultEntry f info b hg, hs⟩
  invalidateTree b := fun ⟨hg, hs⟩ => ⟨(stepInvariant_globalInv c).invalidateTree b hg, storageInv_invalidateTree b hs⟩
  invalidateOutput b := fun ⟨hg, hin, hft, hnode, hct, _⟩ =>
    ⟨(stepInvariant_globalInv c).invalidateOutput b hg, hin, hft, hnode, hct, ⟨rfl, rfl⟩⟩
  dropTable b := fun ⟨hg, hin, _, _, _, hout⟩ =>
    ⟨(stepInvariant_globalInv c).dropTable b hg, hin, ⟨rfl, rfl⟩, ⟨rfl, rfl⟩, ⟨rfl, rfl, fun _ => rfl⟩, hout⟩
  pushByte x b hroom := by
    rintro ⟨hg, ⟨hwf, hbelow⟩, hrest⟩
    have hnext := toNat_add_one_of_lt (inLen_lt_inCap c b (inLen_le_of_globalInv hg) hroom)
    refine ⟨(stepInvariant_globalInv c).pushByte x b hroom hg, ⟨memory_wf_write _ _ _ hwf, ?_⟩, hrest⟩
    rw [invalidateHeader_inLen, invalidateHeader_ibuf, hnext]
    exact cells_below_write _ _ _ _ (cells_below_mono _ (Nat.le_succ _) hbelow) (Nat.lt_succ_self _)
  pushRecord r b hroom := by
    rintro ⟨hg, hin, ⟨hwf, hbelow⟩, -, -, hout⟩
    obtain ⟨-, hnext⟩ := ftCount_add_one b (ftCount_le_of_globalInv hg) hroom
    refine ⟨(stepInvariant_globalInv c).pushRecord r b hroom hg, hin, ⟨cells_wf_write _ _ _ hwf, ?_⟩, ⟨rfl, rfl⟩,
      ⟨rfl, rfl, fun _ => rfl⟩, hout⟩
    show Cells.below (b.ftCount + 1).toNat _ = true
    rw [hnext]
    exact cells_below_write _ _ _ _ (cells_below_mono _ (Nat.le_succ _) hbelow) (Nat.lt_succ_self _)
  clearInput b := fun ⟨hg, _, hrest⟩ => ⟨(stepInvariant_globalInv c).clearInput b hg, ⟨rfl, rfl⟩, hrest⟩
  clearTable b := fun ⟨hg, hin, _, _, _, hout⟩ =>
    ⟨(stepInvariant_globalInv c).clearTable b hg, hin, ⟨rfl, rfl⟩, ⟨rfl, rfl⟩, ⟨rfl, rfl, fun _ => rfl⟩, hout⟩
  countInput b := fun ⟨hg, hin, _, _, _, hout⟩ =>
    ⟨(stepInvariant_globalInv c).countInput b hg, hin,
      ofList_canonical _ ((countRecords_length b.input).trans_lt (by decide)), ⟨rfl, rfl⟩, ⟨rfl, rfl, fun _ => rfl⟩, hout⟩
  storeTree b hne hcheck := by
    rintro ⟨hg, hin, hft, -, -, hout⟩
    have hcap := ftCount_le_of_globalInv hg
    have hpos : b.ftCount.toNat ≠ 0 := fun h => hne (BitVec.eq_of_toNat_eq h)
    have hlen := buildTree_length_lt b.records (by rw [records_length]; omega) (by rwa [records_length])
    exact ⟨(stepInvariant_globalInv c).storeTree b hne hcheck hg, hin, hft, ofList_canonical _ hlen,
      ⟨rfl, rfl, fun _ => rfl⟩, hout⟩
  storeCodes b htreeValid := fun ⟨hg, hin, hft, hnode, _, hout⟩ =>
    ⟨(stepInvariant_globalInv c).storeCodes b htreeValid hg, hin, hft, hnode,
      ⟨codesOf_wf _ _, codesOf_below _ _, nofun⟩, hout⟩
  storeContainer b hfits := by
    rintro ⟨hg, hin, hft, hnode, hct, -⟩
    refine ⟨(stepInvariant_globalInv c).storeContainer b hfits hg, hin, hft, hnode, hct, containerMemory_wf b, ?_⟩
    rw [storeContainer_outLen, bitVec_toNat_ofNat_of_lt (hfits.trans_lt c.outCap.isLt)]
    exact containerMemory_below b
  storeHeader b htwo hcount hend hcheck := fun ⟨hg, hin, _, _, _, hout⟩ =>
    ⟨(stepInvariant_globalInv c).storeHeader b htwo hcount hend hcheck hg, hin,
      ofList_canonical _ (by rw [headerRecords_length]; omega), ⟨rfl, rfl⟩, ⟨rfl, rfl, fun _ => rfl⟩, hout⟩
  storeOutput out b hfits := fun ⟨hg, hin, hft, hnode, hct, _⟩ =>
    ⟨(stepInvariant_globalInv c).storeOutput out b hfits hg, hin, hft, hnode, hct,
      ofList_canonical _ (hfits.trans_lt c.outCap.isLt)⟩

end Sys2Proof.Machine

open Sys2Proof Sys2Proof.Machine

/-- Settles O57: each elementary change of the block keeps what the flags say (`stepInvariant_flagsFaithful`): BUILD,
GENC and PARSE store what the flags name, and every other change of what they name clears them. -/
theorem stepKeepsTheFlagsFaithful : Obligations.StepKeepsTheFlagsFaithful := by
  unfold Obligations.StepKeepsTheFlagsFaithful
  intro s t hs hstep
  exact (stepInvariant_flagsFaithful s.cfg).keeps_step hs hstep

/-- Settles O58: each elementary change of the block keeps the canonical form together with the global invariants, which
bound the lengths (`stepInvariant_storageInv`); no step changes the capacities. -/
theorem stepKeepsTheStorageCanonical : Obligations.StepKeepsTheStorageCanonical := by
  unfold Obligations.StepKeepsTheStorageCanonical
  rintro s t ⟨hcfg, hs⟩ hstep
  obtain ⟨-, hstorage⟩ := (stepInvariant_storageInv s.cfg).keeps_step hs hstep
  exact ⟨step_cfg hstep ▸ hcfg, hstorage⟩

/-- Settles O55: reset is the base case of the three invariants. -/
theorem resetMeetsTheInvariants : Obligations.ResetMeetsTheInvariants := by
  unfold Obligations.ResetMeetsTheInvariants
  have hreset : ∀ c : Config, c.admissible → (State.resetWith c).Inv ∧ flagsFaithful (State.resetWith c).blk :=
    fun c hc => ⟨⟨hc, (stepInvariant_storageInv c).reset⟩, (stepInvariant_flagsFaithful c).reset⟩
  obtain ⟨hinv, -⟩ := hreset Config.usual (by decide)
  exact ⟨hreset, hinv, rfl⟩

end

section
/-! PROOFS. The family 10_state.md, the invalidations: what a transaction leaves of the table, the input and what depends
on them (R66, R67). -/

namespace Sys2Proof.Machine

/-- The tree and the codes are invalid (R66). -/
abbrev treeInvalid (b : Block) : Prop := b.treeValid = false ∧ b.ctValid = false ∧ b.nodeCount = 0 ∧ b.root = 0

/-- The header is invalid (R67). -/
abbrev headerInvalid (b : Block) : Prop := b.hdrValid = false ∧ b.hdrEnd = 0

/-- The ways from `b` to `b'` a transaction other than a pipeline command has, by what it may change: nothing that a valid
flag depends on, the input, the table, or (PARSE alone) the table it reads from the input. -/
inductive SourceChange (i : Instr) (b b' : Block) : Prop where
  | neither (records : b'.records = b.records) (input : b'.input = b.input)
  | ofInput (records : b'.records = b.records) (header : headerInvalid b')
  | ofTable (tree : treeInvalid b') (header : headerInvalid b')
  | byParse (parse : i = .parse) (input : b'.input = b.input) (tree : treeInvalid b')

theorem build_sources (c : Config) (b : Block) :
    (build c b).block.records = b.records ∧ (build c b).block.input = b.input := by
  obtain ⟨-, hbuild⟩ | ⟨f, k, -, -, hbuild⟩ | ⟨-, -, hbuild⟩ := build_cases c b <;> rw [hbuild] <;> exact ⟨rfl, rfl⟩

theorem genc_sources (c : Config) (b : Block) :
    (genc c b).block.records = b.records ∧ (genc c b).block.input = b.input := by
  obtain ⟨-, hgenc⟩ | ⟨-, hgenc⟩ := genc_cases c b <;> rw [hgenc] <;> exact ⟨rfl, rfl⟩

theorem packChecked_sources (c : Config) (b : Block) :
    (packChecked c b).block.records = b.records ∧ (packChecked c b).block.input = b.input := by
  obtain ⟨-, hpack⟩ | ⟨i, -, -, hpack⟩ | ⟨-, -, -, hpack⟩ | ⟨-, -, -, hpack⟩ := packChecked_cases c b <;> rw [hpack] <;>
    exact ⟨rfl, rfl⟩

theorem pack_sources (c : Config) (b : Block) :
    (pack c b).block.records = b.records ∧ (pack c b).block.input = b.input := by
  obtain ⟨-, hpack⟩ | ⟨-, hpack⟩ := pack_cases c b <;> rw [hpack]
  · exact packChecked_sources c (invalidateOutput b)
  · exact ⟨rfl, rfl⟩

theorem finishDecode_sources (out : List Byte) (b : Block) :
    (finishDecode out b).block.records = b.records ∧ (finishDecode out b).block.input = b.input := by
  obtain ⟨-, hfinish⟩ | ⟨-, hfinish⟩ := finishDecode_cases out b <;> rw [hfinish] <;> exact ⟨rfl, rfl⟩

theorem decodeStream_sources (c : Config) (b : Block) :
    (decodeStream c b).block.records = b.records ∧ (decodeStream c b).block.input = b.input := by
  obtain ⟨-, -, hdec⟩ | ⟨-, -, hdec⟩ | ⟨out, -, -, hdec⟩ | ⟨n, start, out, -, -, -, hdec⟩ | ⟨start, out, -, -, hdec⟩ :=
    decodeStream_cases c b <;> rw [hdec]
  · exact ⟨rfl, rfl⟩
  · exact finishDecode_sources [] b
  · exact ⟨rfl, rfl⟩
  · exact ⟨rfl, rfl⟩
  · exact finishDecode_sources out b

theorem decodeContainer_sources (c : Config) (b : Block) :
    (decodeContainer c b).block.records = b.records ∧ (decodeContainer c b).block.input = b.input := by
  obtain ⟨-, hdec⟩ | ⟨-, hdec⟩ := decodeContainer_cases c b <;> rw [hdec]
  · obtain ⟨-, hcheck⟩ | ⟨-, -, hcheck⟩ | ⟨-, -, -, hcheck⟩ | ⟨-, -, -, hcheck⟩ :=
      decodeChecked_cases c (invalidateOutput b) <;> rw [hcheck]
    · exact ⟨rfl, rfl⟩
    · exact ⟨rfl, rfl⟩
    · exact ⟨rfl, rfl⟩
    · exact decodeStream_sources c (invalidateOutput b)
  · exact ⟨rfl, rfl⟩

/-- PARSE drops the old table and its tree in every case, and reads the input only (46_unpack.md R240). -/
theorem parse_sources (c : Config) (b : Block) :
    (parse c b).block.input = b.input ∧ treeInvalid (parse c b).block := by
  obtain ⟨-, hparse⟩ | ⟨-, -, hparse⟩ | ⟨-, -, -, hparse⟩ | ⟨f, k, -, -, -, -, hparse⟩ | ⟨-, -, -, -, hparse⟩ :=
    parse_cases c b <;> rw [hparse] <;> exact ⟨rfl, rfl, rfl, rfl, rfl⟩

theorem inPush_sources (x : Byte) (i : Instr) (c : Config) (b : Block) : SourceChange i b (inPush x c b).block := by
  obtain ⟨-, hpush⟩ | ⟨-, hpush⟩ := inPush_cases x c b <;> rw [hpush]
  · exact .neither rfl rfl
  · exact .ofInput rfl ⟨rfl, rfl⟩

theorem ftPush_sources (count : Word) (i : Instr) (c : Config) (b : Block) : SourceChange i b (ftPush count c b).block := by
  obtain ⟨-, hpush⟩ | ⟨-, hpush⟩ := ftPush_cases count c b <;> rw [hpush]
  · exact .neither rfl rfl
  · exact .ofTable ⟨rfl, rfl, rfl, rfl⟩ ⟨rfl, rfl⟩

/-- A gated write changes what its rule changes, or nothing. -/
theorem gated_sources {i : Instr} (s : State) (rule : Config → Block → Result)
    (hrule : SourceChange i s.blk (rule s.cfg s.blk).block) : SourceChange i s.blk (s.gated rule).blk :=
  gated_blk_induction s rule (SourceChange i s.blk) (.neither rfl rfl) fun _ => hrule

theorem exec_sources (i : Instr) (s : State) (hcompress : i ≠ .compress) (hdecompress : i ≠ .decompress) :
    ∃ t, exec i s = .next t ∧ SourceChange i s.blk t.blk := by
  cases i
  case compress => exact absurd rfl hcompress
  case decompress => exact absurd rfl hdecompress
  case srst => exact ⟨_, rfl, .ofTable ⟨rfl, rfl, rfl, rfl⟩ ⟨rfl, rfl⟩⟩
  case nop => exact ⟨_, rfl, gated_sources s nop (.neither rfl rfl)⟩
  case iclr => exact ⟨_, rfl, gated_sources s iclr (.ofInput rfl ⟨rfl, rfl⟩)⟩
  case fclr => exact ⟨_, rfl, gated_sources s fclr (.ofTable ⟨rfl, rfl, rfl, rfl⟩ ⟨rfl, rfl⟩)⟩
  case freq => exact ⟨_, rfl, gated_sources s freq (.ofTable ⟨rfl, rfl, rfl, rfl⟩ ⟨rfl, rfl⟩)⟩
  case build =>
    obtain ⟨hrecords, hinput⟩ := build_sources s.cfg s.blk
    exact ⟨_, rfl, gated_sources s build (.neither hrecords hinput)⟩
  case genc =>
    obtain ⟨hrecords, hinput⟩ := genc_sources s.cfg s.blk
    exact ⟨_, rfl, gated_sources s genc (.neither hrecords hinput)⟩
  case pack =>
    obtain ⟨hrecords, hinput⟩ := pack_sources s.cfg s.blk
    exact ⟨_, rfl, gated_sources s pack (.neither hrecords hinput)⟩
  case decode =>
    obtain ⟨hrecords, hinput⟩ := decodeContainer_sources s.cfg s.blk
    exact ⟨_, rfl, gated_sources s decodeContainer (.neither hrecords hinput)⟩
  case parse =>
    obtain ⟨hinput, htree⟩ := parse_sources s.cfg s.blk
    exact ⟨_, rfl, gated_sources s parse (.byParse rfl hinput htree)⟩
  case cmdIllegal word => exact ⟨_, rfl, gated_sources s (illegalCommand word) (.neither rfl rfl)⟩
  case wrInPush x => exact ⟨_, rfl, gated_sources s (inPush x) (inPush_sources x _ _ _)⟩
  case wrFtPush count => exact ⟨_, rfl, gated_sources s (ftPush count) (ftPush_sources count _ _ _)⟩
  all_goals exact ⟨_, rfl, .neither rfl rfl⟩

end Sys2Proof.Machine

open Sys2Proof Sys2Proof.Machine

/-- Settles O59: a transaction that changes the input or the table invalidates what depends on it, whichever of the four
ways it has (`exec_sources`). -/
theorem changesInvalidateWhatDependsOnThem : Obligations.ChangesInvalidateWhatDependsOnThem := by
  unfold Obligations.ChangesInvalidateWhatDependsOnThem
  intro i s t hexec hcompress hdecompress
  obtain ⟨u, hnext, hchange⟩ := exec_sources i s hcompress hdecompress
  obtain rfl : u = t := by simpa [hexec] using hnext.symm
  cases hchange with
  | neither hrecords hinput => exact ⟨fun h => absurd hrecords h, fun h => absurd hinput h, fun h => absurd hrecords h⟩
  | ofInput hrecords hheader => exact ⟨fun h => absurd hrecords h, fun _ => hheader, fun h => absurd hrecords h⟩
  | ofTable htree hheader => exact ⟨fun _ => htree, fun _ => hheader, fun _ _ => hheader⟩
  | byParse hparse hinput htree => exact ⟨fun _ => htree, fun h => absurd hinput h, fun _ h => absurd hparse h⟩

end

section
/-! PROOFS. The family 10_state.md, the reads: the word each register returns (R34 to R57), as a number. -/

namespace Sys2Proof.Machine

/-! ## Words -/

theorem bitVec_toNat_append {n m : Nat} (x : BitVec n) (y : BitVec m) :
    (x ++ y).toNat = 2 ^ m * x.toNat + y.toNat := by
  rw [BitVec.toNat_append, ← Nat.shiftLeft_add_eq_or_of_lt y.isLt, Nat.shiftLeft_eq, Nat.mul_comm]

theorem bitVec_ofNat_mod (w n : Nat) : BitVec.ofNat w (n % 2 ^ w) = BitVec.ofNat w n := by
  apply BitVec.eq_of_toNat_eq
  simp

theorem extractLsb'_eq_ofNat {n : Nat} (start len : Nat) (x : BitVec n) :
    x.extractLsb' start len = BitVec.ofNat len (x.toNat / 2 ^ start) := by
  rw [BitVec.extractLsb', Nat.shiftRight_eq_div_pow]

/-- The low word of a 40-bit register. -/
theorem lowWord_eq (x : BitVec 40) : x.extractLsb' 0 32 = BitVec.ofNat 32 (x.toNat % 2 ^ 32) := by
  rw [extractLsb'_eq_ofNat, Nat.pow_zero, Nat.div_one, bitVec_ofNat_mod]

/-- The high byte of a 40-bit register, zero-extended. -/
theorem highByte_eq (x : BitVec 40) : (x.extractLsb' 32 8).setWidth 32 = BitVec.ofNat 32 (x.toNat / 2 ^ 32) := by
  have hx := x.isLt
  rw [extractLsb'_eq_ofNat, ← BitVec.ofNat_toNat, bitVec_toNat_ofNat_of_lt (by omega)]

theorem setWidth_eq_ofNat {n : Nat} (x : BitVec n) : x.setWidth 32 = BitVec.ofNat 32 x.toNat :=
  (BitVec.ofNat_toNat 32 x).symm

/-! ## Decoding an access to a known address -/

theorem decode_writeWord (a : RegAddr) (d : Word) : decode (writeWord a d) = decodeWrite a d := by
  simp [decode]

theorem byteOf_eq_ofNat (d : Word) : byteOf d = BitVec.ofNat 8 (d.toNat % 2 ^ 8) := by
  rw [byteOf, extractLsb'_eq_ofNat, Nat.pow_zero, Nat.div_one, bitVec_ofNat_mod]

theorem indexOf_eq_ofNat (d : Word) : indexOf d = BitVec.ofNat 9 (d.toNat % 2 ^ 9) := by
  rw [indexOf, extractLsb'_eq_ofNat, Nat.pow_zero, Nat.div_one, bitVec_ofNat_mod]

/-! ## Reads -/

/-- A read whose rule yields `w` reads as any word equal to it. -/
theorem readsAs_of_eq {i : Instr} {s : State} {v w : Word} (hexec : exec i s = .next (s.yieldRead w)) (hw : w = v) :
    readsAs i s v :=
  hw ▸ hexec

/-- Bits 0 to 4 of five flags put side by side are the flags, the last one first. -/
theorem fiveFlags_getLsbD (out ct tree hdr err : Bool) :
    let bits := BitVec.ofBool out ++ BitVec.ofBool ct ++ BitVec.ofBool tree ++ BitVec.ofBool hdr ++ BitVec.ofBool err
    bits.getLsbD 0 = err ∧ bits.getLsbD 1 = hdr ∧ bits.getLsbD 2 = tree ∧ bits.getLsbD 3 = ct ∧ bits.getLsbD 4 = out := by
  revert out ct tree hdr err
  decide

/-- STATUS (R34). -/
theorem readStatus_flags (b : Block) : (readStatus b).getLsbD 0 = b.err ∧ (readStatus b).getLsbD 1 = b.hdrValid
    ∧ (readStatus b).getLsbD 2 = b.treeValid ∧ (readStatus b).getLsbD 3 = b.ctValid
    ∧ (readStatus b).getLsbD 4 = b.outValid ∧ ∀ i, 5 ≤ i → (readStatus b).getLsbD i = false := by
  have hbit : ∀ i < 32, (readStatus b).getLsbD i = (statusBits b).getLsbD i := fun i hi => by
    simp [readStatus, hi]
  obtain ⟨herr, hhdr, htree, hct, hout⟩ := fiveFlags_getLsbD b.outValid b.ctValid b.treeValid b.hdrValid b.err
  refine ⟨(hbit 0 (by omega)).trans herr, (hbit 1 (by omega)).trans hhdr, (hbit 2 (by omega)).trans htree,
    (hbit 3 (by omega)).trans hct, (hbit 4 (by omega)).trans hout, fun i hi => ?_⟩
  rw [readStatus, BitVec.getLsbD_setWidth, BitVec.getLsbD_of_ge _ _ hi, Bool.and_false]

theorem readErr_toNat (b : Block) : (readErr b).toNat
    = 2 ^ 12 * (taxonOfCode b.errCode).toNat + 2 ^ 8 * (classOfCode b.errCode).toNat + b.errCode.toNat := by
  simp only [readErr, bitVec_toNat_append, BitVec.toNat_ofNat]
  omega

theorem nodeInfo_eq (n : Node) : nodeInfo n = BitVec.ofNat 32 (n.left.toNat + 2 ^ 9 * n.right.toNat
    + 2 ^ 18 * n.sym.toNat + 2 ^ 26 * n.leaf.toNat + 2 ^ 27) := by
  have hleft := n.left.isLt
  have hright := n.right.isLt
  have hsym := n.sym.isLt
  have hleaf := n.leaf.toNat_lt
  apply BitVec.eq_of_toNat_eq
  rw [bitVec_toNat_ofNat_of_lt (by omega)]
  simp only [nodeInfo, bitVec_toNat_append, BitVec.toNat_ofNat, BitVec.toNat_ofBool]
  omega

theorem ctLen_eq (len : BitVec 8) : 1#1 ++ 0#23 ++ len = BitVec.ofNat 32 (2 ^ 31 + len.toNat) := by
  have hlen := len.isLt
  apply BitVec.eq_of_toNat_eq
  rw [bitVec_toNat_ofNat_of_lt (by omega)]
  simp only [bitVec_toNat_append, BitVec.toNat_ofNat]
  omega

/-- Word `w` of a code's value (R53). -/
theorem ctWord_eq (val : BitVec 255) (w : Nat) :
    (val.setWidth 256).extractLsb' (32 * w) 32 = BitVec.ofNat 32 (val.toNat / 2 ^ (32 * w) % 2 ^ 32) := by
  have hval : val.toNat < 2 ^ 256 := val.isLt.trans (by decide)
  rw [extractLsb'_eq_ofNat, BitVec.toNat_setWidth, Nat.mod_eq_of_lt hval, bitVec_ofNat_mod]

theorem ftTotal_toNat (b : Block) (h : b.ftCount.toNat ≤ 256) : b.ftTotal.toNat = totalOf b.records :=
  bitVec_toNat_ofNat_of_lt (totalOf_lt b.records (by rwa [records_length]))

/-! ## The windows: present below the length, 0 at and above it -/

theorem readInData_of_lt (b : Block) (h : b.inSel.toNat < b.inLen.toNat) :
    readInData b = (Memory.read b.ibuf b.inSel.toNat).setWidth 32 := if_pos h

theorem readInData_of_le (b : Block) (h : b.inLen.toNat ≤ b.inSel.toNat) : readInData b = 0 := if_neg (Nat.not_lt.2 h)

theorem readOutData_of_lt (b : Block) (h : b.outSel.toNat < b.outLen.toNat) :
    readOutData b = (Memory.read b.obuf b.outSel.toNat).setWidth 32 := if_pos h

theorem readOutData_of_le (b : Block) (h : b.outLen.toNat ≤ b.outSel.toNat) : readOutData b = 0 :=
  if_neg (Nat.not_lt.2 h)

end Sys2Proof.Machine

open Sys2Proof Sys2Proof.Machine

/-- Settles O7: STATUS is its five flags and nothing above, ERR the three fields of its code (`readErr_toNat`). -/
theorem statusAndErrorRead : Obligations.StatusAndErrorRead := by
  unfold Obligations.StatusAndErrorRead
  refine ⟨fun s => ⟨readStatus s.blk, rfl, readStatus_flags s.blk⟩, fun s p hp hcode => readsAs_of_eq rfl ?_,
    fun s => ⟨readErr s.blk, rfl, ?_, ?_⟩, fun s => rfl⟩
  · rw [readErr, hcode]
    fin_cases hp <;> rfl
  · have htaxon := (taxonOfCode s.blk.errCode).isLt
    have hclass := (classOfCode s.blk.errCode).isLt
    have hcode := s.blk.errCode.isLt
    rw [readErr_toNat]
    omega
  · have hcode := s.blk.errCode.isLt
    rw [readErr_toNat]
    omega

/-- Settles O8: every plain register's rule yields the register, zero-extended (`setWidth_eq_ofNat`). -/
theorem plainRegistersRead : Obligations.PlainRegistersRead := by
  unfold Obligations.PlainRegistersRead
  exact fun s => ⟨rfl, rfl, rfl, rfl, readsAs_of_eq rfl (setWidth_eq_ofNat _), readsAs_of_eq rfl (setWidth_eq_ofNat _),
    readsAs_of_eq rfl (setWidth_eq_ofNat _), rfl, rfl, readsAs_of_eq rfl (setWidth_eq_ofNat _),
    readsAs_of_eq rfl (lowWord_eq _), readsAs_of_eq rfl (highByte_eq _)⟩

/-- Settles O9: IN_DATA is the byte below IN_LEN and 0 from there on. -/
theorem inputWindow : Obligations.InputWindow := by
  unfold Obligations.InputWindow
  refine ⟨fun d => ⟨decode_writeWord 0x0A d, decode_writeWord 0x0B d⟩, rfl, rfl, rfl, fun s => ⟨fun _ => rfl, rfl, ?_, ?_⟩⟩
  · exact fun h => readsAs_of_eq rfl ((readInData_of_lt _ h).trans (setWidth_eq_ofNat _))
  · exact fun h => readsAs_of_eq rfl (readInData_of_le _ h)

/-- Settles O13: OUT_DATA is the byte below OUT_LEN and 0 from there on. -/
theorem outputWindow : Obligations.OutputWindow := by
  unfold Obligations.OutputWindow
  refine fun s => ⟨rfl, ?_, ?_⟩
  · exact fun h => readsAs_of_eq rfl ((readOutData_of_lt _ h).trans (setWidth_eq_ofNat _))
  · exact fun h => readsAs_of_eq rfl (readOutData_of_le _ h)

/-- Settles O10: the record is read below FT_COUNT, and 256 counts of 32 bits sum below 2^40 (`totalOf_lt`). -/
theorem frequencyTableWindow : Obligations.FrequencyTableWindow := by
  unfold Obligations.FrequencyTableWindow
  refine fun s => ⟨readsAs_of_eq rfl (setWidth_eq_ofNat _), readsAs_of_eq rfl (setWidth_eq_ofNat _), fun h => ?_,
    fun h => ?_, ?_⟩
  · exact ⟨readsAs_of_eq rfl ((if_pos h).trans (setWidth_eq_ofNat _)), readsAs_of_eq rfl (if_pos h)⟩
  · exact ⟨readsAs_of_eq rfl (if_neg (Nat.not_lt.2 h)), readsAs_of_eq rfl (if_neg (Nat.not_lt.2 h))⟩
  · have hlt := s.blk.ftTotal.isLt
    have hlo : (readFtTotalLo s.blk).toNat = s.blk.ftTotal.toNat % 2 ^ 32 := by
      rw [readFtTotalLo, lowWord_eq, bitVec_toNat_ofNat_of_lt (by omega)]
    have hhi : (readFtTotalHi s.blk).toNat = s.blk.ftTotal.toNat / 2 ^ 32 := by
      rw [readFtTotalHi, highByte_eq, bitVec_toNat_ofNat_of_lt (by omega)]
    refine ⟨readFtTotalLo s.blk, readFtTotalHi s.blk, rfl, rfl, by omega, fun hcount => ?_⟩
    rw [← totalOf, ← ftTotal_toNat s.blk hcount]
    omega

/-- Settles O11: the record is read below NODE_COUNT, its members side by side in NODE_INFO (`nodeInfo_eq`). -/
theorem nodeWindow : Obligations.NodeWindow := by
  unfold Obligations.NodeWindow
  refine ⟨rfl, rfl, rfl, rfl, rfl, fun d => ⟨?_, fun a ha => ?_⟩, fun s => ⟨fun _ => rfl,
    readsAs_of_eq rfl (setWidth_eq_ofNat _), ?_, fun h => ?_⟩⟩
  · rw [← indexOf_eq_ofNat]
    exact decode_writeWord 0x18 d
  · simp only [List.mem_cons, List.not_mem_nil, or_false] at ha
    obtain rfl | rfl | rfl := ha <;> exact decode_writeWord _ d
  · rintro h n rfl
    exact ⟨readsAs_of_eq rfl ((if_pos h).trans (nodeInfo_eq _)), readsAs_of_eq rfl ((if_pos h).trans (lowWord_eq _)),
      readsAs_of_eq rfl ((if_pos h).trans (highByte_eq _))⟩
  · exact ⟨readsAs_of_eq rfl (if_neg (Nat.not_lt.2 h)), readsAs_of_eq rfl (if_neg (Nat.not_lt.2 h)),
      readsAs_of_eq rfl (if_neg (Nat.not_lt.2 h))⟩

/-- Settles O12: with a code present CT_LEN and the eight CT_BITS words are read from its entry (`ctLen_eq`,
`ctWord_eq`), without one they are 0. -/
theorem codeWindow : Obligations.CodeWindow := by
  unfold Obligations.CodeWindow
  refine ⟨fun d => ?_, rfl, rfl, rfl, rfl, fun s => ⟨fun _ => rfl, readsAs_of_eq rfl (setWidth_eq_ofNat _), ?_⟩⟩
  · rw [← byteOf_eq_ofNat]
    exact decode_writeWord 0x20 d
  · rintro e rfl
    refine ⟨fun ⟨hct, hvalid⟩ => ?_, fun habsent i hi => ?_⟩
    · have hpresent : codePresent s.blk = true := by simp [codePresent, hct, hvalid]
      have hword : ∀ w, readCtBits w s.blk = _ := fun w => (if_pos hpresent).trans (ctWord_eq _ w)
      have hzero : readCtBits 0 s.blk = BitVec.ofNat 32 ((s.blk.code s.blk.ctSel).val.toNat % 2 ^ 32) := by
        rw [hword 0, Nat.mul_zero, Nat.pow_zero, Nat.div_one]
      exact ⟨readsAs_of_eq rfl ((if_pos hpresent).trans (ctLen_eq _)), readsAs_of_eq rfl hzero,
        readsAs_of_eq rfl (hword 1), readsAs_of_eq rfl (hword 2), readsAs_of_eq rfl (hword 3),
        readsAs_of_eq rfl (hword 4), readsAs_of_eq rfl (hword 5), readsAs_of_eq rfl (hword 6),
        readsAs_of_eq rfl ((hword 7).trans (bitVec_ofNat_mod _ _))⟩
    · have hpresent : codePresent s.blk = false := by
        rcases habsent with h | h <;> simp [codePresent, h]
      have hword : ∀ w, readCtBits w s.blk = 0 := fun w => by simp [readCtBits, hpresent]
      have hlen : readCtLen s.blk = 0 := by simp [readCtLen, hpresent]
      simp only [List.mem_cons, List.not_mem_nil, or_false] at hi
      obtain rfl | rfl | rfl | rfl | rfl | rfl | rfl | rfl | rfl := hi
      · exact readsAs_of_eq rfl hlen
      all_goals exact readsAs_of_eq rfl (hword _)

end

section
/-! PROOFS. The family 20_memory.md: what a read can change and depend on (R87), and the accesses that match no register
(R82). -/

namespace Sys2Proof.Machine

/-! ## Reads -/

/-- Every read yields a word, the same whatever the host's side holds: no read looks at the bus (20_memory.md R87). -/
theorem read_ignores_bus (i : Instr) (hread : i.isRead = true) (s : State) :
    ∃ v, readsAs i s v ∧ ∀ bus, readsAs i { s with bus := bus } v := by
  cases i
  case nop | srst | iclr | fclr | freq | build | genc | pack | parse | decode | compress | decompress | cmdIllegal
      | wrInPush | wrInSel | wrFtSym | wrFtPush | wrFtSel | wrNodeSel | wrCtSel | wrOutSel | wrIgnored =>
    simp [Instr.isRead, encode] at hread
  all_goals exact ⟨_, rfl, fun _ => rfl⟩

theorem state_eq_withBus {s s' : State} (hblk : s'.blk = s.blk) (hcfg : s'.cfg = s.cfg) :
    s' = { s with bus := s'.bus } := by
  rw [← hblk, ← hcfg]

/-! ## Decoding an access by its address -/

theorem decode_readWord (a : RegAddr) : decode (readWord a) = decodeRead a := by
  simp [decode]

theorem lookup_eq_none_of_not_mem_keys {β : Type} {a : RegAddr} {table : List (RegAddr × β)}
    (h : a ∉ table.map Prod.fst) : table.lookup a = none := by
  rw [List.lookup_eq_none_iff]
  intro p hp
  simpa using fun heq : a = p.1 => h (heq ▸ List.mem_map_of_mem hp)

/-- The rows of reads are at the addresses 20_memory.md R81 marks as readable. -/
theorem readTable_keys : readTable.map Prod.fst = readableAddrs := rfl

/-- The register writes are at the addresses 20_memory.md R81 marks as writable, CMD apart. -/
theorem cmd_cons_writeTable_keys : 0x00 :: writeTable.map Prod.fst = writableAddrs := rfl

theorem decodeRead_of_not_readable {a : RegAddr} (h : a ∉ readableAddrs) : decodeRead a = .rdZero a := by
  rw [decodeRead, lookup_eq_none_of_not_mem_keys (readTable_keys ▸ h), Option.getD_none]

theorem decodeWrite_of_not_writable {a : RegAddr} (d : Word) (h : a ∉ writableAddrs) :
    decodeWrite a d = .wrIgnored a d := by
  rw [← cmd_cons_writeTable_keys, List.mem_cons, not_or] at h
  obtain ⟨hcmd, hregister⟩ := h
  rw [decodeWrite, if_neg hcmd, lookup_eq_none_of_not_mem_keys hregister]

end Sys2Proof.Machine

open Sys2Proof Sys2Proof.Machine

/-- Settles O14: two states with the same block and capacities differ in the host's side only, which no read looks at
(`read_ignores_bus`). -/
theorem readsChangeNothing : Obligations.ReadsChangeNothing := by
  unfold Obligations.ReadsChangeNothing
  intro i hread s
  obtain ⟨v, hyields, hbus⟩ := read_ignores_bus i hread s
  refine ⟨v, hyields, fun s' hblk hcfg => ?_⟩
  rw [state_eq_withBus hblk hcfg]
  exact hbus s'.bus

/-- Settles O15: the decoder's rows are at the addresses of R81 alone (`readTable_keys`, `cmd_cons_writeTable_keys`), so
any other access is RD.ZERO or WR.IGNORED. -/
theorem accessesThatMatchNoRegister : Obligations.AccessesThatMatchNoRegister := by
  unfold Obligations.AccessesThatMatchNoRegister
  refine ⟨fun a h => ?_, fun a d h => ?_, by decide, by decide, fun s => ⟨fun _ => rfl, fun _ _ => rfl⟩⟩
  · rw [decode_readWord, decodeRead_of_not_readable h]
  · rw [decode_writeWord, decodeWrite_of_not_writable d h]

end

section
/-! PROOFS. The family 30_encoding.md, the decoder: what its tables hold, and that it undoes the encoder (R110 to
R118). -/

namespace Sys2Proof.Machine

/-! ## Looking up in a decoding table -/

section lookup
variable {α β : Type} [BEq α] [LawfulBEq α] {table : List (α × β)} {k : α} {v : β}

theorem mem_of_lookup_eq_some (h : table.lookup k = some v) : (k, v) ∈ table := by
  obtain ⟨before, after, rfl, -⟩ := List.lookup_eq_some_iff.1 h
  simp

theorem lookup_eq_none_iff_not_mem_keys : table.lookup k = none ↔ k ∉ table.map Prod.fst := by
  simp only [List.lookup_eq_none_iff, bne_iff_ne, List.mem_map, not_exists, not_and]
  exact forall₂_congr fun p _ => ne_comm

theorem lookup_of_mem (hkeys : (table.map Prod.fst).Nodup) (h : (k, v) ∈ table) : table.lookup k = some v := by
  cases hlookup : table.lookup k with
  | none => exact absurd (List.mem_map_of_mem h) (lookup_eq_none_iff_not_mem_keys.1 hlookup)
  | some w =>
    have hsame := List.inj_on_of_nodup_map hkeys (mem_of_lookup_eq_some hlookup) h rfl
    rw [(Prod.mk.inj hsame).2]

/-- What is found in a table with a default: a value listed at the key, or the default when the key is not listed. -/
theorem lookup_getD_induction {P : β → Prop} {fallback : β} (hlisted : ∀ v, (k, v) ∈ table → P v)
    (hdefault : k ∉ table.map Prod.fst → P fallback) : P ((table.lookup k).getD fallback) := by
  cases hlookup : table.lookup k with
  | none => exact hdefault (lookup_eq_none_iff_not_mem_keys.1 hlookup)
  | some v => exact hlisted v (mem_of_lookup_eq_some hlookup)

end lookup

/-! ## Commands -/

/-- The decoder's commands are the twelve words of R115. -/
theorem commandTable_keys : commandTable.map Prod.fst = commandWords := rfl

theorem decodeCommand_of_not_command {d : Word} (h : d ∉ commandWords) : decodeCommand d = .cmdIllegal d := by
  rw [decodeCommand, lookup_eq_none_iff_not_mem_keys.2 (commandTable_keys ▸ h), Option.getD_none]

/-- No two words mean the same command: the encoder gives the word back. -/
theorem encode_decodeCommand (d : Word) : encode (decodeCommand d) = writeWord 0x00 d := by
  have htable : ∀ p ∈ commandTable, encode p.2 = writeWord 0x00 p.1 := by decide
  exact lookup_getD_induction (P := fun i => encode i = writeWord 0x00 d) (fun i hi => htable _ hi) fun _ => rfl

theorem decodeCommand_injective : Function.Injective decodeCommand := fun d e h => by
  have hword : writeWord 0x00 d = writeWord 0x00 e := by
    rw [← encode_decodeCommand, ← encode_decodeCommand, h]
  simpa using congrArg wdataOf hword

/-! ## Accesses by address -/

@[simp] theorem decodeWrite_zero (d : Word) : decodeWrite 0x00 d = decodeCommand d := rfl

theorem decodeWrite_of_ne_zero {a : RegAddr} (d : Word) (h : a ≠ 0x00) :
    decodeWrite a d = (writeTable.lookup a).getD (.wrIgnored a) d := by
  rw [decodeWrite, if_neg h]
  cases writeTable.lookup a <;> rfl

/-- CMD is none of the eight register writes. -/
theorem writeTable_key_ne_zero : ∀ p ∈ writeTable, p.1 ≠ 0x00 := by
  simp [writeTable]

/-- A read is its address, whatever WDATA holds (R110). -/
theorem decode_read (a : RegAddr) (d : Word) : decode (0#1 ++ a ++ d) = decodeRead a := by
  have hwrite : isWrite (0#1 ++ a ++ d) = false := by
    simp only [isWrite, BitVec.getLsbD_append]
    rfl
  have haddr : addrOf (0#1 ++ a ++ d) = a :=
    (BitVec.extractLsb'_append_eq_of_le (by decide : 32 ≤ 32)).trans BitVec.extractLsb'_append_eq_right
  rw [decode, hwrite, haddr]
  rfl

/-- The decoder undoes the encoder on well-formed instructions: a table's row is met at its own key, and the three
catch-all rows are what the tables leave (`decodeCommand_of_not_command`, `decodeWrite_of_not_writable`,
`decodeRead_of_not_readable`). -/
theorem decode_encode (i : Instr) (h : i.wf = true) : decode (encode i) = i := by
  cases i
  case cmdIllegal word =>
    exact (decode_writeWord 0x00 word).trans (decodeCommand_of_not_command (by simpa [Instr.wf] using h))
  case wrIgnored addr wdata =>
    exact (decode_writeWord addr wdata).trans (decodeWrite_of_not_writable wdata (by simpa [Instr.wf] using h))
  case rdZero addr =>
    exact (decode_readWord addr).trans (decodeRead_of_not_readable (by simpa [Instr.wf] using h))
  case wrInPush b => exact (decode_writeWord 0x08 _).trans (congrArg Instr.wrInPush (byteOf_setWidth b))
  case wrFtSym sym => exact (decode_writeWord 0x10 _).trans (congrArg Instr.wrFtSym (byteOf_setWidth sym))
  case wrFtSel index => exact (decode_writeWord 0x13 _).trans (congrArg Instr.wrFtSel (byteOf_setWidth index))
  case wrNodeSel index => exact (decode_writeWord 0x18 _).trans (congrArg Instr.wrNodeSel (indexOf_setWidth index))
  case wrCtSel sym => exact (decode_writeWord 0x20 _).trans (congrArg Instr.wrCtSel (byteOf_setWidth sym))
  case wrInSel index => exact decode_writeWord 0x0A index
  case wrFtPush count => exact decode_writeWord 0x11 count
  case wrOutSel index => exact decode_writeWord 0x31 index
  all_goals rfl

end Sys2Proof.Machine

open Sys2Proof Sys2Proof.Machine

/-- Settles O1 (`decode_encode`). -/
theorem decodeOfEncodeIsIdentity : Obligations.DecodeOfEncodeIsIdentity := by
  unfold Obligations.DecodeOfEncodeIsIdentity
  exact decode_encode

/-- Settles O3: each register write decodes at its address, a command word is recovered from the command
(`decodeCommand_injective`), and a read is its address alone (`decode_read`). -/
theorem transactionsUseTheirBits : Obligations.TransactionsUseTheirBits := by
  unfold Obligations.TransactionsUseTheirBits
  refine ⟨fun d => ?_, fun d e h => ?_, fun a d e => by rw [decode_read, decode_read]⟩
  · rw [← byteOf_eq_ofNat, ← indexOf_eq_ofNat]
    exact ⟨decode_writeWord _ d, decode_writeWord _ d, decode_writeWord _ d, decode_writeWord _ d, decode_writeWord _ d,
      decode_writeWord _ d, decode_writeWord _ d, decode_writeWord _ d⟩
  · rw [decode_writeWord, decode_writeWord] at h
    exact decodeCommand_injective h

/-- Settles O4: the words' fields and rows are evaluated. -/
theorem sampleWordsDecode : Obligations.SampleWordsDecode := by
  unfold Obligations.SampleWordsDecode
  exact ⟨rfl, rfl, rfl, rfl, rfl, rfl, rfl, rfl, rfl⟩

end

section
/-! PROOFS. The family 30_encoding.md, the ordered rows (R118): a row is a condition on the fields of the word, the rows
of one kind are a decoding table, and the first row that takes a word is found by looking its key up there. -/

namespace Sys2Proof.Machine

/-! ## The words a row takes -/

theorem transaction_ext {t u : Transaction} (hwrite : isWrite t = isWrite u) (haddr : addrOf t = addrOf u)
    (hwdata : wdataOf t = wdataOf u) : t = u := by
  rw [transaction_fields t, transaction_fields u, hwrite, haddr, hwdata]

/-- A row compares field by field. -/
theorem takes_iff (r : OpcodeRow) (t : Transaction) : r.takes t = true ↔
    (isWrite t && isWrite r.mask) = isWrite r.pattern ∧ addrOf t &&& addrOf r.mask = addrOf r.pattern
      ∧ wdataOf t &&& wdataOf r.mask = wdataOf r.pattern := by
  have hwrite : isWrite (t &&& r.mask) = (isWrite t && isWrite r.mask) := BitVec.getLsbD_and
  have haddr : addrOf (t &&& r.mask) = addrOf t &&& addrOf r.mask := BitVec.extractLsb'_and
  have hwdata : wdataOf (t &&& r.mask) = wdataOf t &&& wdataOf r.mask := BitVec.extractLsb'_and
  rw [OpcodeRow.takes, beq_iff_eq, ← hwrite, ← haddr, ← hwdata]
  exact ⟨fun h => h ▸ ⟨rfl, rfl, rfl⟩, fun ⟨h, i, j⟩ => transaction_ext h i j⟩

/-- A row that examines every bit takes its pattern alone. -/
theorem takes_fullMask (m : String) (p t : Transaction) : (OpcodeRow.mk m p 0x1FFFFFFFFFF).takes t = true ↔ t = p := by
  rw [OpcodeRow.takes, beq_iff_eq, show (0x1FFFFFFFFFF : Transaction) = BitVec.allOnes 41 from rfl, BitVec.and_allOnes]

/-- A row that examines W and ADDR takes every word with the pattern's W and ADDR. -/
theorem takes_addrMask (m : String) (p t : Transaction) (hp : wdataOf p = 0) :
    (OpcodeRow.mk m p 0x1FF00000000).takes t = true ↔ isWrite t = isWrite p ∧ addrOf t = addrOf p := by
  have hwrite : isWrite 0x1FF00000000 = true := rfl
  have haddr : addrOf 0x1FF00000000 = BitVec.allOnes 8 := rfl
  have hwdata : wdataOf 0x1FF00000000 = 0 := rfl
  rw [takes_iff, hwrite, haddr, hwdata, hp, BitVec.and_allOnes]
  simp

/-- A row that examines W alone takes every word with the pattern's W. -/
theorem takes_wMask (m : String) (p t : Transaction) (haddr : addrOf p = 0) (hwdata : wdataOf p = 0) :
    (OpcodeRow.mk m p 0x10000000000).takes t = true ↔ isWrite t = isWrite p := by
  have hmask : isWrite 0x10000000000 = true := rfl
  have hmaskAddr : addrOf 0x10000000000 = 0 := rfl
  have hmaskWdata : wdataOf 0x10000000000 = 0 := rfl
  rw [takes_iff, hmask, hmaskAddr, hmaskWdata, haddr, hwdata]
  simp

/-- The row of a command. -/
def commandRow (p : Word × Instr) : OpcodeRow := ⟨p.2.mnemonic, writeWord 0x00 p.1, 0x1FFFFFFFFFF⟩

/-- The row of a register write. -/
def writeRow (p : RegAddr × (Word → Instr)) : OpcodeRow := ⟨(p.2 0).mnemonic, writeWord p.1 0, 0x1FF00000000⟩

/-- The row of a register read. -/
def readRow (p : RegAddr × Instr) : OpcodeRow := ⟨p.2.mnemonic, readWord p.1, 0x1FF00000000⟩

theorem eq_writeWord_of_isWrite {t : Transaction} (h : isWrite t = true) : t = writeWord (addrOf t) (wdataOf t) :=
  transaction_ext (by simpa using h) (by simp) (by simp)

theorem writeWord_right_inj {a : RegAddr} {d e : Word} : writeWord a d = writeWord a e ↔ d = e :=
  ⟨fun h => by simpa using congrArg wdataOf h, fun h => h ▸ rfl⟩

theorem commandRow_takes (p : Word × Instr) (t : Transaction) :
    (commandRow p).takes t = true ↔ t = writeWord 0x00 p.1 := takes_fullMask _ _ t

theorem writeRow_takes (p : RegAddr × (Word → Instr)) (t : Transaction) :
    (writeRow p).takes t = true ↔ isWrite t = true ∧ addrOf t = p.1 := by
  simpa [writeRow] using takes_addrMask (p.2 0).mnemonic (writeWord p.1 0) t (by simp)

theorem readRow_takes (p : RegAddr × Instr) (t : Transaction) :
    (readRow p).takes t = true ↔ isWrite t = false ∧ addrOf t = p.1 := by
  have hwdata : wdataOf (readWord p.1) = 0 := BitVec.extractLsb'_append_eq_right
  simpa [readRow] using takes_addrMask p.2.mnemonic (readWord p.1) t hwdata

/-- A write's kind is its register's, whatever WDATA holds. -/
theorem writeRow_mnemonic (d : Word) : ∀ p ∈ writeTable, (writeRow p).mnemonic = (p.2 d).mnemonic := by
  simp [writeTable, writeRow, Instr.mnemonic]

/-- The table of R118 is the decoder's tables, row by row, and its three catch-all rows. -/
theorem opcodeTable_eq : opcodeTable = commandTable.map commandRow ++ illegalRows ++ writeTable.map writeRow
    ++ readTable.map readRow ++ catchAllRows := rfl

/-! ## The first row that takes a word -/

/-- The kind the first of `rows` that takes a word gives it. -/
def kindIn (rows : List OpcodeRow) (t : Transaction) : Option String :=
  (rows.find? (fun r => r.takes t)).map OpcodeRow.mnemonic

theorem kindIn_append (rows rows' : List OpcodeRow) (t : Transaction) :
    kindIn (rows ++ rows') t = (kindIn rows t).or (kindIn rows' t) := by
  rw [kindIn, List.find?_append, Option.map_or]
  rfl

theorem kindIn_cons (r : OpcodeRow) (rows : List OpcodeRow) (t : Transaction) :
    kindIn (r :: rows) t = if r.takes t = true then some r.mnemonic else kindIn rows t := by
  rw [kindIn, List.find?_cons]
  split <;> simp_all [kindIn]

theorem kindIn_eq_none {rows : List OpcodeRow} {t : Transaction} (h : ∀ r ∈ rows, ¬r.takes t = true) :
    kindIn rows t = none := by
  rw [kindIn, List.find?_eq_none.2 h]
  rfl

/-- Rows made from a table, each taking the words of its own key, give a word the kind found at the word's key. -/
theorem kindIn_map_row {α β : Type} [BEq α] [LawfulBEq α] (row : α × β → OpcodeRow) (name : β → String) (k : α)
    (t : Transaction) (table : List (α × β)) (htakes : ∀ p, (row p).takes t = true ↔ k = p.1)
    (hname : ∀ p ∈ table, (row p).mnemonic = name p.2) :
    kindIn (table.map row) t = (table.lookup k).map name := by
  induction table with
  | nil => rfl
  | cons p table ih =>
    have htail := ih fun q hq => hname q (List.mem_cons_of_mem _ hq)
    rw [List.map_cons, kindIn_cons, List.lookup_cons, htail]
    by_cases hk : k = p.1
    · rw [if_pos ((htakes p).2 hk), beq_iff_eq.2 hk]
      exact congrArg some (hname p List.mem_cons_self)
    · rw [if_neg (mt (htakes p).1 hk), beq_eq_false_iff_ne.2 hk]

/-- Rows made from a table, none of which takes the word, give it no kind. -/
theorem kindIn_map_row_eq_none {α : Type} {row : α → OpcodeRow} {t : Transaction} (table : List α)
    (h : ∀ p, ¬(row p).takes t = true) : kindIn (table.map row) t = none :=
  kindIn_eq_none fun r hr => by
    obtain ⟨p, -, rfl⟩ := List.mem_map.1 hr
    exact h p

theorem firstRowKind_eq (t : Transaction) : firstRowKind t =
    ((((kindIn (commandTable.map commandRow) t).or (kindIn illegalRows t)).or (kindIn (writeTable.map writeRow) t)).or
      (kindIn (readTable.map readRow) t)).or (kindIn catchAllRows t) := by
  rw [← kindIn_append, ← kindIn_append, ← kindIn_append, ← kindIn_append, ← opcodeTable_eq]
  rfl

/-! ## The kind of a word -/

theorem kindIn_illegalRows (t : Transaction) :
    kindIn illegalRows t = if isWrite t = true ∧ addrOf t = 0x00 then some "CMD.ILLEGAL" else none := by
  have htakes : (OpcodeRow.mk "CMD.ILLEGAL" 0x10000000000 0x1FF00000000).takes t = true
      ↔ isWrite t = true ∧ addrOf t = 0x00 := takes_addrMask _ _ t rfl
  rw [illegalRows, kindIn_cons, if_congr htakes rfl rfl]
  rfl

theorem kindIn_catchAllRows (t : Transaction) :
    kindIn catchAllRows t = some (if isWrite t = true then "WR.IGNORED" else "RD.ZERO") := by
  have hignored : (OpcodeRow.mk "WR.IGNORED" 0x10000000000 0x10000000000).takes t = true ↔ isWrite t = true :=
    takes_wMask _ _ t rfl rfl
  have hzero : (OpcodeRow.mk "RD.ZERO" 0x00000000000 0x10000000000).takes t = true ↔ isWrite t = false :=
    takes_wMask _ _ t rfl rfl
  rw [catchAllRows, kindIn_cons, kindIn_cons, if_congr hignored rfl rfl, if_congr hzero rfl rfl]
  cases isWrite t <;> rfl

theorem firstRowKind_command (d : Word) : firstRowKind (writeWord 0x00 d) = some (decodeCommand d).mnemonic := by
  have hcommand := kindIn_map_row commandRow Instr.mnemonic d (writeWord 0x00 d) commandTable
    (fun p => (commandRow_takes p _).trans writeWord_right_inj) (fun _ _ => rfl)
  have hillegal : kindIn illegalRows (writeWord 0x00 d) = some "CMD.ILLEGAL" := by simp [kindIn_illegalRows]
  rw [firstRowKind_eq, hcommand, hillegal, decodeCommand]
  cases commandTable.lookup d <;> rfl

theorem firstRowKind_write {a : RegAddr} (d : Word) (h : a ≠ 0x00) :
    firstRowKind (writeWord a d) = some (decodeWrite a d).mnemonic := by
  have hcommand : kindIn (commandTable.map commandRow) (writeWord a d) = none :=
    kindIn_map_row_eq_none _ fun p htakes => h (by simpa using congrArg addrOf ((commandRow_takes p _).1 htakes))
  have hillegal : kindIn illegalRows (writeWord a d) = none := by
    rw [kindIn_illegalRows, if_neg (by simpa using h)]
  have hregister := kindIn_map_row writeRow (fun make => (make d).mnemonic) a (writeWord a d) writeTable
    (fun p => by simp [writeRow_takes]) (writeRow_mnemonic d)
  have hread : kindIn (readTable.map readRow) (writeWord a d) = none :=
    kindIn_map_row_eq_none _ fun p => by simp [readRow_takes]
  rw [firstRowKind_eq, hcommand, hillegal, hregister, hread, kindIn_catchAllRows, isWrite_writeWord,
    decodeWrite_of_ne_zero d h]
  cases writeTable.lookup a <;> rfl

theorem firstRowKind_read {t : Transaction} (h : isWrite t = false) :
    firstRowKind t = some (decodeRead (addrOf t)).mnemonic := by
  have hcommand : kindIn (commandTable.map commandRow) t = none :=
    kindIn_map_row_eq_none _ fun p htakes => by simp [(commandRow_takes p t).1 htakes] at h
  have hillegal : kindIn illegalRows t = none := by simp [kindIn_illegalRows, h]
  have hwrite : kindIn (writeTable.map writeRow) t = none :=
    kindIn_map_row_eq_none _ fun p => by simp [writeRow_takes, h]
  have hregister := kindIn_map_row readRow Instr.mnemonic (addrOf t) t readTable
    (fun p => by simp [readRow_takes, h]) (fun _ _ => rfl)
  rw [firstRowKind_eq, hcommand, hillegal, hwrite, hregister, kindIn_catchAllRows, h, decodeRead]
  cases readTable.lookup (addrOf t) <;> rfl

/-- The kind of every word is the row of its meaning. -/
theorem firstRowKind_eq_mnemonic_decode (t : Transaction) : firstRowKind t = some (decode t).mnemonic := by
  cases hwrite : isWrite t with
  | false => rw [firstRowKind_read hwrite, decode, hwrite]; rfl
  | true =>
    rw [eq_writeWord_of_isWrite hwrite, decode_writeWord]
    by_cases haddr : addrOf t = 0x00
    · rw [haddr, firstRowKind_command, decodeWrite_zero]
    · exact firstRowKind_write _ haddr

/-! ## Every meaning is well formed -/

theorem decodeCommand_wf (d : Word) : (decodeCommand d).wf = true := by
  have htable : ∀ p ∈ commandTable, p.2.wf = true := by decide
  refine lookup_getD_induction (P := fun i => i.wf = true) (fun i hi => htable _ hi) fun hkey => ?_
  simpa [Instr.wf] using commandTable_keys ▸ hkey

theorem decodeRead_wf (a : RegAddr) : (decodeRead a).wf = true := by
  have htable : ∀ p ∈ readTable, p.2.wf = true := by decide
  refine lookup_getD_induction (P := fun i => i.wf = true) (fun i hi => htable _ hi) fun hkey => ?_
  simpa [Instr.wf] using readTable_keys ▸ hkey

theorem decodeWrite_wf (a : RegAddr) (d : Word) : (decodeWrite a d).wf = true := by
  have htable : ∀ p ∈ writeTable, (p.2 d).wf = true := by simp [writeTable, Instr.wf]
  by_cases ha : a = 0x00
  · rw [ha, decodeWrite_zero]
    exact decodeCommand_wf d
  · rw [decodeWrite_of_ne_zero d ha]
    refine lookup_getD_induction (P := fun make => (make d).wf = true) (fun make hmake => htable _ hmake) fun hkey => ?_
    have hwritable : a ∉ 0x00 :: writeTable.map Prod.fst := List.not_mem_cons_of_ne_of_not_mem ha hkey
    simpa [Instr.wf] using cmd_cons_writeTable_keys ▸ hwritable

theorem decode_wf (t : Transaction) : (decode t).wf = true := by
  rw [decode]
  split
  · exact decodeWrite_wf _ _
  · exact decodeRead_wf _

/-! ## Rows do not overlap -/

/-- The three catch-all rows. -/
def catchAllMnemonics : List String := ["CMD.ILLEGAL", "WR.IGNORED", "RD.ZERO"]

/-- A row other than the catch-all rows takes only words that mean its instruction. -/
theorem mnemonic_decode_of_takes {r : OpcodeRow} (hr : r ∈ opcodeTable) (hspecific : r.mnemonic ∉ catchAllMnemonics)
    {t : Transaction} (htakes : r.takes t = true) : (decode t).mnemonic = r.mnemonic := by
  have hillegal : ∀ q ∈ illegalRows, q.mnemonic ∈ catchAllMnemonics := by decide
  have hcatchAll : ∀ q ∈ catchAllRows, q.mnemonic ∈ catchAllMnemonics := by decide
  simp only [opcodeTable_eq, List.mem_append, List.mem_map] at hr
  obtain (((⟨⟨d, i⟩, hp, rfl⟩ | hr) | ⟨⟨a, make⟩, hp, rfl⟩) | ⟨⟨a, i⟩, hp, rfl⟩) | hr := hr
  · rw [(commandRow_takes _ t).1 htakes, decode_writeWord, decodeWrite_zero, decodeCommand,
      lookup_of_mem (by decide) hp]
    rfl
  · exact absurd (hillegal r hr) hspecific
  · obtain ⟨hwrite, rfl⟩ := (writeRow_takes _ t).1 htakes
    have ha : addrOf t ≠ 0x00 := writeTable_key_ne_zero _ hp
    rw [decode, if_pos hwrite, decodeWrite_of_ne_zero _ ha, lookup_of_mem (by decide) hp,
      writeRow_mnemonic (wdataOf t) _ hp]
    rfl
  · obtain ⟨hwrite, rfl⟩ := (readRow_takes _ t).1 htakes
    rw [decode, hwrite, if_neg Bool.false_ne_true, decodeRead, lookup_of_mem (by decide) hp]
    rfl
  · exact absurd (hcatchAll r hr) hspecific

end Sys2Proof.Machine

open Sys2Proof Sys2Proof.Machine

/-- Settles O2: the kind is found by looking the word's key up in the decoder's tables
(`firstRowKind_eq_mnemonic_decode`), and two specific rows that take one word both name its meaning, so they are the
same row. -/
theorem firstMatchingRowIsTheKind : Obligations.FirstMatchingRowIsTheKind := by
  unfold Obligations.FirstMatchingRowIsTheKind
  have hnames : (opcodeTable.map OpcodeRow.mnemonic).Nodup := by decide +kernel
  refine ⟨fun t => ⟨firstRowKind_eq_mnemonic_decode t, decode_wf t⟩, rfl,
    fun r hr q hq hspecific hspecific' t htakes htakes' => List.inj_on_of_nodup_map hnames hr hq ?_⟩
  rw [← mnemonic_decode_of_takes hr hspecific htakes, mnemonic_decode_of_takes hq hspecific' htakes']

end

section
/-! PROOFS. The family 30_encoding.md, what a transaction does: the step (R119), the illegal command (R116), loading the
input (R131). -/

namespace Sys2Proof.Machine

/-- A transaction word, taken as a number, is presented whole. -/
theorem withFetchWord_toNat (s : State) (t : Transaction) : s.withFetchWord 48 t.toNat = present (.transaction t) s := by
  have ht := t.isLt
  rw [State.withFetchWord, Nat.mod_eq_of_lt (by omega), BitVec.ofNat_toNat, BitVec.setWidth_eq]

theorem nextEvent_of_pending {s : State} {e : BusEvent} {rest : List BusEvent} (h : s.bus.pending = e :: rest) :
    nextEvent s = some (e, s.withPending rest) := by
  rw [nextEvent, h]

/-! ## Loading the input -/

/-- The block after a byte is pushed with room in IBUF (40_host_access.md R143). -/
def pushByte (x : Byte) (b : Block) : Block :=
  invalidateHeader { b with ibuf := Memory.write b.ibuf b.inLen.toNat x, inLen := b.inLen + 1 }

theorem exec_wrInPush_of_room {s : State} (x : Byte) (herr : s.blk.err = false) (hroom : s.blk.inLen ≠ s.cfg.inCap) :
    exec (.wrInPush x) s = .next (s.withBlk (pushByte x s.blk)) := by
  obtain ⟨hfull, -⟩ | ⟨-, hpush⟩ := inPush_cases x s.cfg s.blk
  · exact absurd hfull hroom
  · refine congrArg Host.Outcome.next ((gated_of_clear s _ herr).trans ?_)
    rw [hpush]
    rfl

theorem input_pushByte (x : Byte) {b : Block} (hwf : Memory.wf b.ibuf = true)
    (hlen : (pushByte x b).inLen.toNat = b.inLen.toNat + 1) : (pushByte x b).input = b.input ++ [x] := by
  rw [Block.input, hlen]
  exact cells_slice_append [x] b.ibuf b.inLen.toNat hwf

/-- What loading bytes does to a block: they end the input, and only IN_LEN, IBUF and the header have changed. -/
structure Loads (l : List Byte) (b b' : Block) : Prop where
  input : b'.input = b.input ++ l
  frame : b' = { b with inLen := b'.inLen, ibuf := b'.ibuf, hdrValid := b'.hdrValid, hdrEnd := b'.hdrEnd }

theorem runInstrs_wrInPush (l : List Byte) (s : State) (herr : s.blk.err = false) (hwf : Memory.wf s.blk.ibuf = true)
    (hfits : s.blk.inLen.toNat + l.length ≤ s.cfg.inCap.toNat) :
    ∃ b, runInstrs (l.map Instr.wrInPush) s = .next (s.withBlk b) ∧ Loads l s.blk b := by
  induction l generalizing s with
  | nil => exact ⟨s.blk, rfl, by simp, rfl⟩
  | cons x l ih =>
    rw [List.length_cons] at hfits
    have hlt : s.blk.inLen < s.cfg.inCap := by rw [BitVec.lt_def]; omega
    have hlen : (pushByte x s.blk).inLen.toNat = s.blk.inLen.toNat + 1 := toNat_add_one_of_lt hlt
    obtain ⟨b, hrun, hinput, hframe⟩ := ih (s.withBlk (pushByte x s.blk)) herr (memory_wf_write _ _ x hwf)
      (by rw [withBlk_blk, withBlk_cfg, hlen]; omega)
    refine ⟨b, ?_, ?_, hframe⟩
    · rw [List.map_cons, runInstrs, exec_wrInPush_of_room x herr (BitVec.ne_of_lt hlt)]
      exact hrun
    · rw [hinput, withBlk_blk, input_pushByte x hwf hlen, List.append_assoc, List.singleton_append]

end Sys2Proof.Machine

open Sys2Proof Sys2Proof.Machine

/-- Settles O19, by induction on the bytes (`runInstrs_wrInPush`). -/
theorem loadingAppendsToTheInput : Obligations.LoadingAppendsToTheInput := by
  unfold Obligations.LoadingAppendsToTheInput
  rintro s l ⟨-, -, ⟨hwf, -⟩, -⟩ herr hfits
  obtain ⟨b, hrun, hinput, hframe⟩ := runInstrs_wrInPush l s herr hwf hfits
  exact ⟨s.withBlk b, hrun, hinput, (congrArg Block.err hframe).trans herr, rfl, rfl, hframe⟩

/-- Settles O5: the step is what the oldest event says (`nextEvent_of_pending`), and a word presented from outside is the
oldest one (`withFetchWord_toNat`). -/
theorem stepTakesTheOldestEvent : Obligations.StepTakesTheOldestEvent := by
  unfold Obligations.StepTakesTheOldestEvent
  refine ⟨fun s t rest h => ?_, fun s t => ?_, fun s rest h => ?_, fun s h => ?_⟩
  · rw [step, nextEvent_of_pending h]
    rfl
  · rw [withFetchWord_toNat, step, nextEvent_of_pending (present_pending _ s)]
    rfl
  · rw [step, nextEvent_of_pending h]
    rfl
  · rw [step, nextEvent, h]

/-- Settles O25: no row of the decoder's commands is met (`decodeCommand_of_not_command`), and the rule of the illegal
command is fault entry behind the ERR gate. -/
theorem illegalCommandIsReported : Obligations.IllegalCommandIsReported := by
  unfold Obligations.IllegalCommandIsReported
  refine ⟨fun w hw => ?_, fun s w => ⟨fun herr => ?_, fun herr => ?_⟩⟩
  · rw [decode_writeWord, decodeWrite_zero, decodeCommand_of_not_command hw]
  · exact congrArg Host.Outcome.next (gated_of_clear s (illegalCommand w) herr)
  · exact congrArg Host.Outcome.next (gated_of_err s (illegalCommand w) herr)

end

section
/-! PROOFS. The family 40_host_access.md, the writes: the select and staging registers (R144, R145, R147 to R150) and the
two pushes (R143, R146). -/

namespace Sys2Proof.Machine

/-- NODE_INFO reads 0 when NODE_SEL selects no record (10_state.md R51). -/
theorem readNodeInfo_of_le (b : Block) (h : b.nodeCount.toNat ≤ b.nodeSel.toNat) : readNodeInfo b = 0 :=
  if_neg (Nat.not_lt.2 h)

/-- With STATUS.ERR = 0 a gated write leaves the block its rule's result holds. -/
theorem gated_of_clear_of_eq {s : State} {rule : Config → Block → Result} {r : Result} (herr : s.blk.err = false)
    (hrule : rule s.cfg s.blk = r) : s.gated rule = s.withBlk r.block :=
  hrule ▸ gated_of_clear s rule herr

/-! ## The pushes, by the room there is -/

theorem exec_wrInPush_of_full {s : State} (x : Byte) (herr : s.blk.err = false) (hfull : s.blk.inLen = s.cfg.inCap) :
    exec (.wrInPush x) s = .next (s.withBlk (faultEntry .inOverflow s.blk.inLen.toNat s.blk)) := by
  obtain ⟨-, hpush⟩ | ⟨hroom, -⟩ := inPush_cases x s.cfg s.blk
  · exact congrArg Host.Outcome.next (gated_of_clear_of_eq herr hpush)
  · exact absurd hfull hroom

/-- The block after a record is pushed with room in FT (40_host_access.md R146). -/
def pushRecord (count : Word) (b : Block) : Block :=
  invalidateHeader (invalidateTree
    { b with ft := Cells.write blankRecord b.ft b.ftCount.toNat { sym := b.ftSym, cnt := count },
             ftCount := b.ftCount + 1 })

theorem exec_wrFtPush_of_room {s : State} (count : Word) (herr : s.blk.err = false) (hroom : s.blk.ftCount ≠ 256) :
    exec (.wrFtPush count) s = .next (s.withBlk (pushRecord count s.blk)) := by
  obtain ⟨hfull, -⟩ | ⟨-, hpush⟩ := ftPush_cases count s.cfg s.blk
  · exact absurd hfull hroom
  · exact congrArg Host.Outcome.next (gated_of_clear_of_eq herr hpush)

theorem exec_wrFtPush_of_full {s : State} (count : Word) (herr : s.blk.err = false) (hfull : s.blk.ftCount = 256) :
    exec (.wrFtPush count) s = .next (s.withBlk (faultEntry .ftOverflow 256 s.blk)) := by
  obtain ⟨-, hpush⟩ | ⟨hroom, -⟩ := ftPush_cases count s.cfg s.blk
  · exact congrArg Host.Outcome.next (gated_of_clear_of_eq herr hpush)
  · exact absurd hfull hroom

end Sys2Proof.Machine

open Sys2Proof Sys2Proof.Machine

/-- Settles O16: a select write is no gated rule, it replaces its one register. IN_DATA reads 0 from IN_LEN on
(`readInData_of_le`), and NODE_COUNT, of 9 bits, never exceeds 511 (`readNodeInfo_of_le`). -/
theorem selectWritesStore : Obligations.SelectWritesStore := by
  unfold Obligations.SelectWritesStore
  refine ⟨fun d => ?_, fun s => ⟨fun x => ⟨rfl, fun hlen => ?_⟩, fun _ => rfl, fun _ => rfl, fun _ => rfl, ?_,
    fun _ => rfl, fun _ => rfl⟩⟩
  · rw [← byteOf_eq_ofNat, ← indexOf_eq_ofNat]
    exact ⟨decode_writeWord _ d, decode_writeWord _ d, decode_writeWord _ d, decode_writeWord _ d, decode_writeWord _ d,
      decode_writeWord _ d⟩
  · exact readsAs_of_eq rfl (readInData_of_le _ hlen)
  · have hcount : s.blk.nodeCount.toNat ≤ 511 := Nat.le_of_lt_succ s.blk.nodeCount.isLt
    exact readsAs_of_eq rfl (readNodeInfo_of_le _ hcount)

/-- Settles O17: IN_PUSH is fault entry when IBUF is full (`exec_wrInPush_of_full`), else one write at IN_LEN
(`exec_wrInPush_of_room`), which every other index survives. -/
theorem inPushAppends : Obligations.InPushAppends := by
  unfold Obligations.InPushAppends
  refine ⟨fun d => ?_, fun s x => ⟨fun herr hroom hwf => ?_, fun herr hfull => ?_, fun herr => ?_⟩⟩
  · rw [← byteOf_eq_ofNat]
    exact decode_writeWord 0x08 d
  · exact ⟨Memory.write s.blk.ibuf s.blk.inLen.toNat x, exec_wrInPush_of_room x herr hroom,
      memory_read_write_same _ _ x hwf, fun a ha => memory_read_write_other _ _ a x ha⟩
  · exact exec_wrInPush_of_full x herr hfull
  · exact congrArg Host.Outcome.next (gated_of_err s (inPush x) herr)

/-- Settles O18: FT_PUSH is fault entry when FT is full (`exec_wrFtPush_of_full`), else one write at FT_COUNT
(`exec_wrFtPush_of_room`), which every other index survives. -/
theorem ftPushAppends : Obligations.FtPushAppends := by
  unfold Obligations.FtPushAppends
  refine ⟨fun d => decode_writeWord 0x11 d, fun s c => ⟨fun herr hroom hwf => ?_, fun herr hfull => ?_, fun herr => ?_⟩⟩
  · exact ⟨(pushRecord c s.blk).ft, [], [], exec_wrFtPush_of_room c herr hroom, cells_read_write_same _ _ _ hwf,
      fun k hk => cells_read_write_other _ _ k _ hk⟩
  · exact exec_wrFtPush_of_full c herr hfull
  · exact congrArg Host.Outcome.next (gated_of_err s (ftPush c) herr)

end

section
/-! PROOFS. The family 41_control.md: what NOP, ICLR and FCLR change (R170, R172, R173). -/

namespace Sys2Proof.Machine

/-- Whichever way the ERR gate goes, NOP leaves the state as it was (41_control.md R170). -/
theorem gated_nop (s : State) : s.gated nop = s := by
  cases herr : s.blk.err with
  | true => exact gated_of_err s nop herr
  | false => exact (gated_of_clear s nop herr).trans (withBlk_self s)

end Sys2Proof.Machine

open Sys2Proof Sys2Proof.Machine

/-- Settles O24: the three words are the encodings (`decode_encode`); NOP keeps the state, ERR set or not (`gated_nop`);
with STATUS.ERR = 0 the rules of ICLR and FCLR run (`gated_of_clear`), which drop the memories they empty. -/
theorem controlCommandsEmptyWhatTheyName : Obligations.ControlCommandsEmptyWhatTheyName := by
  unfold Obligations.ControlCommandsEmptyWhatTheyName
  refine ⟨decode_encode .nop rfl, decode_encode .iclr rfl, decode_encode .fclr rfl, fun s => ?_, fun s herr => ⟨?_, ?_⟩⟩
  · exact congrArg Host.Outcome.next (gated_nop s)
  · exact ⟨[], congrArg Host.Outcome.next (gated_of_clear s iclr herr)⟩
  · exact ⟨[], [], [], congrArg Host.Outcome.next (gated_of_clear s fclr herr)⟩

end

section
/-! PROOFS. The family 42_freq.md: the table FREQ counts from the input (R180 to R182). -/

namespace Sys2Proof.Machine

theorem bitVec_toNat_eq_zero_iff {w : Nat} (x : BitVec w) : x.toNat = 0 ↔ x = 0 := BitVec.toNat_inj (y := 0)

/-! ## The records FREQ writes, of any byte sequence -/

theorem mem_countRecords (input : List Byte) (r : FtRecord) :
    r ∈ countRecords input ↔ r.cnt = symbolCount input r.sym ∧ r.cnt ≠ 0 := by
  simp only [countRecords, List.mem_filter, List.mem_map, List.mem_range, decide_eq_true_eq]
  refine and_congr_left fun _ => ⟨?_, fun hcnt => ⟨r.sym.toNat, r.sym.isLt, ?_⟩⟩
  · rintro ⟨k, -, rfl⟩
    rfl
  · rw [BitVec.ofNat_toNat, BitVec.setWidth_eq, ← hcnt]

/-- FREQ writes in ascending order of symbol value (42_freq.md R181). -/
theorem countRecords_ascending (input : List Byte) :
    ((countRecords input).map (fun r => r.sym.toNat)).Pairwise (· < ·) := by
  refine List.pairwise_map.2 (List.Pairwise.filter _ (List.pairwise_map.2 ?_))
  refine List.pairwise_lt_range.imp_of_mem fun {j k} hj hk hlt => ?_
  rwa [bitVec_toNat_ofNat_of_lt (List.mem_range.1 hj), bitVec_toNat_ofNat_of_lt (List.mem_range.1 hk)]

theorem countRecords_symbols_nodup (input : List Byte) : ((countRecords input).map FtRecord.sym).Nodup :=
  List.pairwise_map.2 ((List.pairwise_map.1 (countRecords_ascending input)).imp
    fun hlt heq => hlt.ne (congrArg BitVec.toNat heq))

theorem tableWf_countRecords (input : List Byte) : tableWf (countRecords input) :=
  ⟨fun r hr => ((mem_countRecords input r).1 hr).2, countRecords_symbols_nodup input⟩

/-! ## The counts are exact when the length of the input fits in a word -/

section exactCounts
variable {input : List Byte} (hlen : input.length < 2 ^ 32)
include hlen

/-- The 32-bit counter does not wrap (42_freq.md R180). -/
theorem symbolCount_toNat (sym : Byte) : (symbolCount input sym).toNat = input.count sym :=
  bitVec_toNat_ofNat_of_lt (List.count_le_length.trans_lt hlen)

theorem symbolCount_ne_zero_iff (sym : Byte) : symbolCount input sym ≠ 0 ↔ sym ∈ input := by
  rw [← List.count_pos_iff, ← symbolCount_toNat hlen, Nat.pos_iff_ne_zero, ne_eq, ne_eq, bitVec_toNat_eq_zero_iff]

theorem cnt_of_mem_countRecords {r : FtRecord} (hr : r ∈ countRecords input) : r.cnt.toNat = input.count r.sym := by
  rw [((mem_countRecords input r).1 hr).1, symbolCount_toNat hlen]

theorem mem_countRecords_symbols (sym : Byte) : sym ∈ (countRecords input).map FtRecord.sym ↔ sym ∈ input := by
  rw [← symbolCount_ne_zero_iff hlen, List.mem_map]
  constructor
  · rintro ⟨r, hr, rfl⟩
    obtain ⟨hcnt, hne⟩ := (mem_countRecords input r).1 hr
    exact hcnt ▸ hne
  · exact fun hne => ⟨⟨sym, symbolCount input sym⟩, (mem_countRecords input _).2 ⟨rfl, hne⟩, rfl⟩

/-- The symbols of the table are the distinct bytes of the input, each once. -/
theorem countRecords_symbols_perm_dedup : ((countRecords input).map FtRecord.sym).Perm input.dedup :=
  (List.perm_ext_iff_of_nodup (countRecords_symbols_nodup input) input.nodup_dedup).2 fun sym => by
    rw [mem_countRecords_symbols hlen, List.mem_dedup]

theorem countRecords_length_eq_dedup : (countRecords input).length = input.dedup.length := by
  rw [← (countRecords_symbols_perm_dedup hlen).length_eq, List.length_map]

/-- The counts add up to the length: every byte of the input is counted once. -/
theorem totalOf_countRecords : totalOf (countRecords input) = input.length := by
  calc totalOf (countRecords input)
      = (((countRecords input).map FtRecord.sym).map (input.count ·)).sum := by
        rw [totalOf, List.map_map]
        exact congrArg List.sum (List.map_congr_left fun r hr => cnt_of_mem_countRecords hlen hr)
    _ = (input.dedup.map (input.count ·)).sum := ((countRecords_symbols_perm_dedup hlen).map _).sum_eq
    _ = input.length := List.sum_map_count_dedup_eq_length input

end exactCounts

/-! ## The block after FREQ -/

theorem input_length_lt (b : Block) : b.input.length < 2 ^ 32 := (input_length b).trans_lt b.inLen.isLt

/-- The block FREQ leaves (42_freq.md R180). -/
def countedBlock (b : Block) : Block := invalidateHeader (invalidateTree (storeRecords (countRecords b.input) b))

theorem exec_freq {s : State} (herr : s.blk.err = false) : exec .freq s = .next (s.withBlk (countedBlock s.blk)) :=
  congrArg Host.Outcome.next (gated_of_clear s freq herr)

theorem countedBlock_records (b : Block) : (countedBlock b).records = countRecords b.input :=
  storeRecords_records _ b (countRecords_length b.input)

theorem countedBlock_ftCount (b : Block) : (countedBlock b).ftCount.toNat = b.input.dedup.length := by
  rw [← records_length, countedBlock_records, countRecords_length_eq_dedup (input_length_lt b)]

theorem countedBlock_ftTotal (b : Block) : (countedBlock b).ftTotal.toNat = b.inLen.toNat := by
  have hcap : (countedBlock b).ftCount.toNat ≤ 256 := by
    rw [← records_length, countedBlock_records]
    exact countRecords_length b.input
  rw [ftTotal_toNat _ hcap, countedBlock_records, totalOf_countRecords (input_length_lt b), input_length]

/-- FREQ leaves no record exactly when there is no input byte (42_freq.md R182). -/
theorem countedBlock_ftCount_eq_zero_iff (b : Block) : (countedBlock b).ftCount = 0 ↔ b.inLen = 0 := by
  rw [← bitVec_toNat_eq_zero_iff, ← bitVec_toNat_eq_zero_iff, countedBlock_ftCount, ← input_length,
    List.length_eq_zero_iff, List.length_eq_zero_iff, List.dedup_eq_nil]

end Sys2Proof.Machine

open Sys2Proof Sys2Proof.Machine

/-- Settles O26: the table is `countRecords` of the input, in ascending order (`countRecords_ascending`), with counts
that do not wrap since IN_LEN is below 2^32 (`cnt_of_mem_countRecords`) and a record for every byte
(`mem_countRecords_symbols`). -/
theorem freqCountsTheInput : Obligations.FreqCountsTheInput := by
  unfold Obligations.FreqCountsTheInput
  refine fun s herr => ⟨_, exec_freq herr, rfl, rfl, ?_⟩
  have hlen := input_length_lt s.blk
  rw [withBlk_blk, countedBlock_records]
  refine ⟨countRecords_ascending _, fun r hr => ⟨cnt_of_mem_countRecords hlen hr, ?_⟩,
    fun x hx => (mem_countRecords_symbols hlen x).2 hx, rfl⟩
  obtain ⟨-, hne⟩ := (mem_countRecords _ r).1 hr
  exact Nat.pos_iff_ne_zero.2 (mt (bitVec_toNat_eq_zero_iff _).1 hne)

/-- Settles O27: the symbols of the table are the distinct bytes of the input (`countRecords_symbols_perm_dedup`), so
their number is that of the records, and their counts sum to the length (`totalOf_countRecords`). -/
theorem freqTableIsFaithful : Obligations.FreqTableIsFaithful := by
  unfold Obligations.FreqTableIsFaithful
  intro s t herr hexec
  obtain rfl : s.withBlk (countedBlock s.blk) = t := Host.Outcome.next.inj ((exec_freq herr).symm.trans hexec)
  rw [withBlk_blk, countedBlock_records]
  exact ⟨tableWf_countRecords _, countedBlock_ftCount _, countedBlock_ftTotal _, countedBlock_ftCount_eq_zero_iff _⟩

end

section
/-! PROOFS. The family 43_build.md: when BUILD faults and with what (R197, R200), which nodes each merge takes (R192 to
R194), and what the tree depends on (R203). -/

namespace Sys2Proof.Machine

/-! ## FTCheck finds the lowest faulty record (10_state.md R46) -/

/-- FTCheck passes over records in which it finds nothing, keeping their number and their symbols. -/
theorem ftCheckFrom_append {clean : List FtRecord} (rest : List FtRecord) {k : Nat} {seen : List Byte}
    (h : ftCheckFrom k seen clean = none) :
    ftCheckFrom k seen (clean ++ rest)
      = ftCheckFrom (k + clean.length) ((clean.map FtRecord.sym).reverse ++ seen) rest := by
  induction clean generalizing k seen with
  | nil => rfl
  | cons r clean ih =>
    simp only [ftCheckFrom, List.cons_append] at h ⊢
    split at h
    · cases h
    · rename_i hcnt
      split at h
      · cases h
      · rename_i hseen
        rw [if_neg hcnt, if_neg hseen, ih h]
        simp [Nat.add_assoc, Nat.add_comm 1]

/-- The records below the lowest faulty one are a well-formed table. -/
theorem tableWf_take_of_cleanBelow {recs : List FtRecord} {k : Nat} (h : cleanBelow recs k) : tableWf (recs.take k) := by
  refine ⟨fun r hr hcnt => ?_, List.pairwise_iff_getElem.2 fun i j hi hj hij heq => ?_⟩
  · obtain ⟨j, hj, rfl⟩ := List.mem_take_iff_getElem.1 hr
    obtain ⟨hzero, -⟩ := h j (by omega)
    exact hzero ⟨_, List.getElem?_eq_getElem (by omega), hcnt⟩
  · simp only [List.length_map, List.length_take, List.getElem_map, List.getElem_take] at hi hj heq
    obtain ⟨-, hrepeat⟩ := h j (by omega)
    refine hrepeat ⟨_, List.getElem?_eq_getElem (by omega), List.mem_map.2 ⟨recs[i], ?_, heq⟩⟩
    exact List.mem_take_iff_getElem.2 ⟨i, by omega, rfl⟩

/-- With nothing wrong below record k, FTCheck comes to record k with the symbols of the records below it. -/
theorem ftCheck_of_cleanBelow {recs : List FtRecord} {k : Nat} {r : FtRecord} (hclean : cleanBelow recs k)
    (hr : recs[k]? = some r) :
    ftCheck recs = ftCheckFrom k ((recs.take k).map FtRecord.sym).reverse (r :: recs.drop (k + 1)) := by
  obtain ⟨hk, rfl⟩ := List.getElem?_eq_some_iff.1 hr
  have hnone := (ftCheck_none _).2 (tableWf_take_of_cleanBelow hclean)
  calc ftCheck recs = ftCheckFrom 0 [] (recs.take k ++ recs.drop k) := by rw [List.take_append_drop]; rfl
    _ = _ := by
      rw [ftCheckFrom_append _ hnone, List.drop_eq_getElem_cons hk, List.append_nil, Nat.zero_add,
        List.length_take_of_le hk.le]

theorem ftCheck_of_zeroAt {recs : List FtRecord} {k : Nat} (hclean : cleanBelow recs k) (hzero : zeroAt recs k) :
    ftCheck recs = some (.ftZero, k) := by
  obtain ⟨r, hr, hcnt⟩ := hzero
  rw [ftCheck_of_cleanBelow hclean hr, ftCheckFrom, if_pos hcnt]

theorem ftCheck_of_repeatAt {recs : List FtRecord} {k : Nat} (hclean : cleanBelow recs k) (hzero : ¬zeroAt recs k)
    (hrepeat : repeatAt recs k) : ftCheck recs = some (.ftDup, k) := by
  obtain ⟨r, hr, hsym⟩ := hrepeat
  rw [ftCheck_of_cleanBelow hclean hr, ftCheckFrom, if_neg fun hcnt => hzero ⟨r, hr, hcnt⟩,
    if_pos (by simpa using hsym)]

/-! ## The three ways BUILD ends, each under its condition -/

theorem records_eq_nil_iff (b : Block) : b.records = [] ↔ b.ftCount = 0 := by
  rw [← List.length_eq_zero_iff, records_length, bitVec_toNat_eq_zero_iff]

theorem build_of_empty (c : Config) {b : Block} (h : b.ftCount = 0) :
    build c b = raise .emptyTable 0 (invalidateTree b) :=
  if_pos h

theorem build_of_ftCheck_some (c : Config) {b : Block} {f : FaultKind} {k : Nat} (h : ftCheck b.records = some (f, k)) :
    build c b = raise f k (invalidateTree b) := by
  have hne : b.ftCount ≠ 0 := fun h0 => by simp [(records_eq_nil_iff b).2 h0, ftCheck, ftCheckFrom] at h
  rw [build, if_neg hne, h]

theorem build_of_tableWf (c : Config) {b : Block} (hne : b.ftCount ≠ 0) (h : tableWf b.records) :
    build c b = .ok (storeTree (buildTree b.records) b) := by
  rw [build, if_neg hne, (ftCheck_none _).2 h]

theorem exec_build {s : State} {r : Result} (herr : s.blk.err = false) (hbuild : build s.cfg s.blk = r) :
    exec .build s = .next (s.withBlk r.block) :=
  congrArg Host.Outcome.next (gated_of_clear_of_eq herr hbuild)

/-- What BUILD leaves in NODE, NODE_COUNT, ROOT and TREE_VALID is the same for blocks with the same records (R203). -/
theorem build_tree_congr (c c' : Config) {b b' : Block} (h : b.records = b'.records) :
    (build c b).block.node = (build c' b').block.node
      ∧ (build c b).block.nodeCount = (build c' b').block.nodeCount
      ∧ (build c b).block.root = (build c' b').block.root
      ∧ (build c b).block.treeValid = (build c' b').block.treeValid := by
  have hcount : b.ftCount = 0 ↔ b'.ftCount = 0 := by rw [← records_eq_nil_iff, h, records_eq_nil_iff]
  obtain ⟨hempty, hbuild⟩ | ⟨f, k, -, hcheck, hbuild⟩ | ⟨hne, hcheck, hbuild⟩ := build_cases c b
  · rw [hbuild, build_of_empty c' (hcount.1 hempty)]
    exact ⟨rfl, rfl, rfl, rfl⟩
  · rw [hbuild, build_of_ftCheck_some c' (h ▸ hcheck)]
    exact ⟨rfl, rfl, rfl, rfl⟩
  · rw [hbuild, build_of_tableWf c' (mt hcount.2 hne) (h ▸ (ftCheck_none _).1 hcheck), h]
    exact ⟨rfl, rfl, rfl, rfl⟩

/-! ## The key of a node (R193) -/

/-- key(i) = (NODE[i].freq, i), ordered first by frequency, then by index (R193). -/
def nodeKey (arena : List Node) (i : Nat) : ℕ ×ₗ ℕ := toLex ((arenaAt arena i).freq.toNat, i)

theorem nodeKey_lt_iff (arena : List Node) (i j : Nat) : nodeKey arena i < nodeKey arena j ↔
    (arenaAt arena i).freq.toNat < (arenaAt arena j).freq.toNat
      ∨ ((arenaAt arena i).freq.toNat = (arenaAt arena j).freq.toNat ∧ i < j) :=
  Prod.Lex.toLex_lt_toLex

theorem keyBefore_iff_nodeKey_lt (arena : List Node) (i j : Nat) :
    keyBefore arena i j = true ↔ nodeKey arena i < nodeKey arena j :=
  (keyBefore_iff arena i j).trans (nodeKey_lt_iff arena i j).symm

/-- Different nodes have different keys. -/
theorem nodeKey_injective (arena : List Node) : Function.Injective (nodeKey arena) :=
  fun _ _ h => congrArg (fun key => (ofLex key).2) h

/-- The scan of PQ ends at a key that no member's key is below. -/
theorem nodeKey_leastKey_le (arena : List Node) (pq : List Nat) :
    ∀ m, ∀ x ∈ m :: pq, nodeKey arena (leastKey arena m pq) ≤ nodeKey arena x := by
  induction pq with
  | nil =>
    intro m x hx
    obtain rfl := List.mem_singleton.1 hx
    exact le_rfl
  | cons y pq ih =>
    intro m x hx
    rw [leastKey]
    obtain ⟨hleast, hrest⟩ := List.forall_mem_cons.1 (ih (if keyBefore arena y m then y else m))
    have hkept : nodeKey arena (if keyBefore arena y m then y else m) ≤ nodeKey arena m
        ∧ nodeKey arena (if keyBefore arena y m then y else m) ≤ nodeKey arena y := by
      split <;> rename_i hkey <;> rw [keyBefore_iff_nodeKey_lt] at hkey
      · exact ⟨hkey.le, le_rfl⟩
      · exact ⟨le_rfl, not_lt.1 hkey⟩
    obtain ⟨hm, hy⟩ := hkept
    rcases List.mem_cons.1 hx with rfl | hx
    · exact hleast.trans hm
    · rcases List.mem_cons.1 hx with rfl | hx
      · exact hleast.trans hy
      · exact hrest x hx

/-- The member extracted has the least key (R193). -/
theorem nodeKey_le_of_extractMin {arena : List Node} {pq pq' : List Nat} {a : Nat}
    (h : extractMin arena pq = some (a, pq')) : ∀ x ∈ pq, nodeKey arena a ≤ nodeKey arena x := by
  cases pq with
  | nil => cases h
  | cons m pq =>
    obtain ⟨rfl, -⟩ : leastKey arena m pq = a ∧ (m :: pq).erase (leastKey arena m pq) = pq' := by
      simpa [extractMin] using h
    exact nodeKey_leastKey_le arena pq m

/-- Two extractions one after the other, from a PQ without repetitions, take the two least keys, the lesser first. -/
theorem nodeKey_lt_of_extractMin_twice {arena : List Node} {pq pq1 pq2 : List Nat} {a b : Nat} (hnodup : pq.Nodup)
    (ha : extractMin arena pq = some (a, pq1)) (hb : extractMin arena pq1 = some (b, pq2)) :
    nodeKey arena a < nodeKey arena b ∧ ∀ x ∈ pq, x = a ∨ x = b ∨ nodeKey arena b < nodeKey arena x := by
  have hperm := extractMin_perm ha
  have hmem1 : ∀ x, x ∈ pq ↔ x = a ∨ x ∈ pq1 := fun x => hperm.mem_iff.trans List.mem_cons
  have hnodup1 : a ∉ pq1 := (List.nodup_cons.1 (hperm.nodup_iff.1 hnodup)).1
  have hbmem : b ∈ pq1 := (extractMin_perm hb).mem_iff.2 List.mem_cons_self
  have hlt : ∀ {x y}, nodeKey arena x ≤ nodeKey arena y → y ≠ x → nodeKey arena x < nodeKey arena y :=
    fun hle hne => hle.lt_of_ne fun heq => hne (nodeKey_injective arena heq).symm
  refine ⟨hlt (nodeKey_le_of_extractMin ha b ((hmem1 b).2 (.inr hbmem))) fun heq => hnodup1 (heq ▸ hbmem), fun x hx => ?_⟩
  rcases (hmem1 x).1 hx with rfl | hx
  · exact .inl rfl
  · by_cases hxb : x = b
    · exact .inr (.inl hxb)
    · exact .inr (.inr (hlt (nodeKey_le_of_extractMin hb x hx) hxb))

/-! ## Which nodes each merge takes (R192, R194) -/

/-- A round of the loop ends it, or merges the two members that two extractions take. -/
theorem mergeLoop_extracts (fuel : Nat) (arena : List Node) (pq : List Nat) :
    mergeLoop (fuel + 1) arena pq = (arena, pq)
    ∨ ∃ a b pq1 pq2, extractMin arena pq = some (a, pq1) ∧ extractMin arena pq1 = some (b, pq2)
        ∧ mergeLoop (fuel + 1) arena pq = mergeLoop fuel (arena ++ [mergeNode arena a b]) (pqInsert arena.length pq2) := by
  rw [mergeLoop]
  split
  · exact .inl rfl
  · rename_i a pq1 ha
    split
    · exact .inl rfl
    · rename_i b pq2 hb
      exact .inr ⟨a, b, pq1, pq2, ha, hb, rfl⟩

/-- Node i was made by a merge of the two nodes extracted first from the PQ of the nodes below i (R190, R192). -/
def MadeByExtraction (recs : List FtRecord) (arena : List Node) (i : Nat) : Prop :=
  ∃ pq pq1 pq2 a b, MergeInv recs (arena.take i) pq ∧ extractMin (arena.take i) pq = some (a, pq1)
    ∧ extractMin (arena.take i) pq1 = some (b, pq2) ∧ arenaAt arena i = mergeNode (arena.take i) a b

/-- A node made by extraction stays one when the arena grows. -/
theorem MadeByExtraction.append {recs : List FtRecord} {arena : List Node} {i : Nat}
    (h : MadeByExtraction recs arena i) (hi : i < arena.length) (x : Node) : MadeByExtraction recs (arena ++ [x]) i := by
  rwa [MadeByExtraction, List.take_append_of_le_length hi.le, arenaAt_append_left arena [x] i hi]

/-- The node of a merge is made by extraction. -/
theorem madeByExtraction_mergeNode {recs : List FtRecord} {arena : List Node} {pq pq1 pq2 : List Nat} {a b : Nat}
    (hinv : MergeInv recs arena pq) (ha : extractMin arena pq = some (a, pq1))
    (hb : extractMin arena pq1 = some (b, pq2)) :
    MadeByExtraction recs (arena ++ [mergeNode arena a b]) arena.length := by
  rw [MadeByExtraction, List.take_left, arenaAt_append_length]
  exact ⟨pq, pq1, pq2, a, b, hinv, ha, hb, rfl⟩

/-- Every node the loop makes is made by extraction. -/
theorem mergeLoop_madeByExtraction {recs : List FtRecord} (hcap : recs.length ≤ 256) (fuel : Nat) :
    ∀ arena pq, MergeInv recs arena pq → (∀ i, recs.length ≤ i → i < arena.length → MadeByExtraction recs arena i) →
      ∀ i, recs.length ≤ i → i < (mergeLoop fuel arena pq).1.length →
        MadeByExtraction recs (mergeLoop fuel arena pq).1 i := by
  induction fuel with
  | zero => exact fun _ _ _ hmade => hmade
  | succ fuel ih =>
    intro arena pq hinv hmade
    obtain hend | ⟨a, b, pq1, pq2, ha, hb, hloop⟩ := mergeLoop_extracts fuel arena pq
    · rwa [hend]
    · rw [hloop]
      have hperm := (extractMin_perm ha).trans ((extractMin_perm hb).cons a)
      refine ih _ _ (hinv.merge hcap hperm) fun i hi hlt => ?_
      rw [List.length_append, List.length_singleton, Nat.lt_succ_iff_lt_or_eq] at hlt
      obtain hold | rfl := hlt
      · exact (hmade i hi hold).append hold _
      · exact madeByExtraction_mergeNode hinv ha hb

theorem buildTree_madeByExtraction (recs : List FtRecord) (htwo : 2 ≤ recs.length) (hcap : recs.length ≤ 256) (i : Nat)
    (hge : recs.length ≤ i) (hlt : i < (buildTree recs).1.length) : MadeByExtraction recs (buildTree recs).1 i := by
  rw [buildTree_of_two_le recs htwo] at hlt ⊢
  refine mergeLoop_madeByExtraction hcap _ _ _ (mergeInv_leaves recs) (fun j hj hleaf => ?_) i hge hlt
  rw [List.length_map] at hleaf
  omega

/-- PQ holds exactly the nodes that are a child of no internal node. -/
theorem MergeInv.mem_pq_iff {recs : List FtRecord} {arena : List Node} {pq : List Nat} (h : MergeInv recs arena pq)
    (j : Nat) : j ∈ pq ↔ j < arena.length ∧ ∀ k < arena.length, recs.length ≤ k →
      (arenaAt arena k).left.toNat ≠ j ∧ (arenaAt arena k).right.toNat ≠ j := by
  have hparents : arenaParents recs.length arena j = [] ↔ ∀ k < arena.length, recs.length ≤ k →
      (arenaAt arena k).left.toNat ≠ j ∧ (arenaAt arena k).right.toNat ≠ j := by
    simp [arenaParents, List.filter_eq_nil_iff]
  rw [← hparents]
  refine ⟨fun hj => ⟨h.bound j hj, ?_⟩, fun ⟨hlt, hnone⟩ => ?_⟩
  · rw [← List.length_eq_zero_iff, h.parents j (h.bound j hj), if_pos hj]
  · by_contra hj
    have hcount := h.parents j hlt
    rw [hnone, if_neg hj] at hcount
    cases hcount

theorem arenaAt_take (arena : List Node) {i k : Nat} (h : k < i) : arenaAt (arena.take i) k = arenaAt arena k := by
  simp [arenaAt, List.getD_eq_getElem?_getD, h]

theorem nodeKey_take (arena : List Node) {i k : Nat} (h : k < i) : nodeKey (arena.take i) k = nodeKey arena k := by
  rw [nodeKey, nodeKey, arenaAt_take arena h]

/-! ## The stored tree -/

theorem storeTree_keyLess_iff (t : List Node × Nat) (b : Block) (j k : Nat) :
    (storeTree t b).keyLess j k ↔ nodeKey t.1 j < nodeKey t.1 k := by
  rw [nodeKey_lt_iff, Block.keyLess, storeTree_nodeNum, storeTree_nodeNum]

/-- The nodes that wait when node i is made are the members of the PQ of the nodes below i. -/
theorem storeTree_waitsAt_iff (t : List Node × Nat) (b : Block) {i : Nat} {pq : List Nat} (hi : i < t.1.length)
    (hinv : MergeInv b.records (t.1.take i) pq) (j : Nat) : (storeTree t b).waitsAt i j ↔ j ∈ pq := by
  rw [hinv.mem_pq_iff, List.length_take_of_le hi.le, Block.waitsAt, storeTree_ftCount, records_length]
  refine and_congr_right fun _ => forall₂_congr fun k hk => ?_
  rw [storeTree_nodeNum, arenaAt_take t.1 hk]

/-- A stored node made by extraction has for children the two least keys that wait when it is made, the lesser to the
left (R192, R194). -/
theorem MadeByExtraction.takesTheTwoLeast {b : Block} {t : List Node × Nat} {i l r : Nat} (hi : i < t.1.length)
    (hlen : t.1.length ≤ 2 ^ 9) (h : MadeByExtraction b.records t.1 i) (hl : l = ((storeTree t b).nodeNum i).left.toNat)
    (hr : r = ((storeTree t b).nodeNum i).right.toNat) :
    (storeTree t b).waitsAt i l ∧ (storeTree t b).waitsAt i r ∧ (storeTree t b).keyLess l r
      ∧ ∀ j, (storeTree t b).waitsAt i j → j = l ∨ j = r ∨ (storeTree t b).keyLess r j := by
  obtain ⟨pq, pq1, pq2, first, second, hinv, hfirst, hsecond, hnode⟩ := h
  have hperm := (extractMin_perm hfirst).trans ((extractMin_perm hsecond).cons first)
  have hfirstMem : first ∈ pq := hperm.mem_iff.2 (by simp)
  have hsecondMem : second ∈ pq := hperm.mem_iff.2 (by simp)
  have hbound : ∀ x ∈ pq, x < i := fun x hx => (hinv.bound x hx).trans_le (List.length_take_le _ _)
  rw [storeTree_nodeNum, hnode] at hl hr
  obtain rfl : l = first :=
    hl.trans (bitVec_toNat_ofNat_of_lt ((hbound first hfirstMem).trans (hi.trans_le hlen)))
  obtain rfl : r = second :=
    hr.trans (bitVec_toNat_ofNat_of_lt ((hbound second hsecondMem).trans (hi.trans_le hlen)))
  have hwaits := storeTree_waitsAt_iff t b hi hinv
  have hkey : ∀ x ∈ pq, nodeKey (t.1.take i) x = nodeKey t.1 x := fun x hx => nodeKey_take t.1 (hbound x hx)
  obtain ⟨hless, hothers⟩ := nodeKey_lt_of_extractMin_twice hinv.nodup hfirst hsecond
  simp only [hwaits, storeTree_keyLess_iff]
  refine ⟨hfirstMem, hsecondMem, ?_, fun j hj => ?_⟩
  · rwa [← hkey l hfirstMem, ← hkey r hsecondMem]
  · rw [← hkey r hsecondMem, ← hkey j hj]
    exact hothers j hj

/-- The block BUILD leaves when its checks pass (R190). -/
def builtBlock (b : Block) : Block := storeTree (buildTree b.records) b

theorem exec_build_of_tableWf {s : State} (herr : s.blk.err = false) (hne : s.blk.ftCount ≠ 0)
    (hwf : tableWf s.blk.records) : exec .build s = .next (s.withBlk (builtBlock s.blk)) :=
  exec_build herr (build_of_tableWf s.cfg hne hwf)

theorem builtBlock_nodeNum (b : Block) (i : Nat) : (builtBlock b).nodeNum i = arenaAt (buildTree b.records).1 i :=
  storeTree_nodeNum _ b i

theorem builtBlock_arenaInv {b : Block} (hne : b.ftCount ≠ 0) (hcap : b.ftCount.toNat ≤ 256) :
    arenaInv (builtBlock b) :=
  arenaInv_storeTree b hne hcap

/-- The merges of BUILD of two records or more, the nodes N to 2N-2 (R192, R194). -/
theorem builtBlock_merges {b : Block} (htwo : 2 ≤ b.ftCount.toNat) (hcap : b.ftCount.toNat ≤ 256) {i l r : Nat}
    (hge : b.ftCount.toNat ≤ i) (hlt : i < 2 * b.ftCount.toNat - 1) (hl : l = ((builtBlock b).nodeNum i).left.toNat)
    (hr : r = ((builtBlock b).nodeNum i).right.toNat) :
    ((builtBlock b).nodeNum i).leaf = false ∧ (builtBlock b).waitsAt i l ∧ (builtBlock b).waitsAt i r
      ∧ (builtBlock b).keyLess l r
      ∧ (∀ j, (builtBlock b).waitsAt i j → j = l ∨ j = r ∨ (builtBlock b).keyLess r j)
      ∧ ((builtBlock b).nodeNum i).freq.toNat
        = ((builtBlock b).nodeNum l).freq.toNat + ((builtBlock b).nodeNum r).freq.toNat := by
  rw [← records_length] at htwo hcap hge hlt
  have hlen := buildTree_length b.records htwo hcap
  have hi : i < (buildTree b.records).1.length := by omega
  obtain ⟨hleaf, -, -, -, -, hfreq⟩ := (buildTree_mergeInv b.records htwo hcap).merges i hge hi
  obtain ⟨hlwaits, hrwaits, hless, hothers⟩ :=
    (buildTree_madeByExtraction b.records htwo hcap i hge hi).takesTheTwoLeast hi (by omega) hl hr
  refine ⟨?_, hlwaits, hrwaits, hless, hothers, ?_⟩
  · rwa [builtBlock_nodeNum]
  · rw [hl, hr]
    simpa only [builtBlock_nodeNum] using hfreq

/-- A node before another in the order of extraction is not heavier. -/
theorem freq_le_of_keyLess {b : Block} {j k : Nat} (h : b.keyLess j k) :
    (b.nodeNum j).freq.toNat ≤ (b.nodeNum k).freq.toNat := by
  obtain hlt | ⟨heq, -⟩ := h
  · exact hlt.le
  · exact heq.le

end Sys2Proof.Machine

open Sys2Proof Sys2Proof.Machine

/-- Settles O28: FTCheck passes over the clean records below k (`ftCheck_of_cleanBelow`) and stops at record k, by its
zero count (`ftCheck_of_zeroAt`) or else by its repeated symbol (`ftCheck_of_repeatAt`). -/
theorem buildFaults : Obligations.BuildFaults := by
  unfold Obligations.BuildFaults
  refine fun s herr => ⟨[], [], ?_⟩
  rintro b rfl
  refine ⟨fun hempty => ?_, fun k hclean => ⟨fun hzero => ?_, fun hzero hrepeat => ?_⟩⟩
  · exact exec_build herr (build_of_empty _ hempty)
  · exact exec_build herr (build_of_ftCheck_some _ (ftCheck_of_zeroAt hclean hzero))
  · exact exec_build herr (build_of_ftCheck_some _ (ftCheck_of_repeatAt hclean hzero hrepeat))

/-- Settles O29: the arena satisfies R50 for every table of 1 to 256 records (`arenaInv_storeTree`), and a well-formed
table has at most 256 (`tableWf_length`). -/
theorem buildMakesTheTree : Obligations.BuildMakesTheTree := by
  unfold Obligations.BuildMakesTheTree
  intro s herr hne hwf
  have hcap := (records_length s.blk).symm.trans_le (tableWf_length _ hwf)
  exact ⟨_, exec_build_of_tableWf herr hne hwf, rfl, rfl, builtBlock_arenaInv hne hcap, rfl⟩

/-- Settles O30: the scan ends at a key that no member's key is below (`nodeKey_leastKey_le`), and different members have
different keys (`nodeKey_injective`). -/
theorem extractMinTakesTheLeastKey : Obligations.ExtractMinTakesTheLeastKey := by
  unfold Obligations.ExtractMinTakesTheLeastKey
  rintro arena (_ | ⟨m, pq⟩) hne
  · exact absurd rfl hne
  · refine ⟨leastKey arena m pq, rfl, leastKey_mem arena pq m, fun x hx => ?_⟩
    rw [← nodeKey_lt_iff]
    exact (nodeKey_leastKey_le arena pq m x hx).eq_or_lt.imp_left fun heq => (nodeKey_injective arena heq).symm

/-- Settles O31: each internal node was made by two extractions from the PQ of the nodes below it
(`buildTree_madeByExtraction`), which holds the waiting nodes (`storeTree_waitsAt_iff`), so its children are the two least
keys (`MadeByExtraction.takesTheTwoLeast`); of one record both children are the one leaf. -/
theorem leftChildIsNeverHeavier : Obligations.LeftChildIsNeverHeavier := by
  unfold Obligations.LeftChildIsNeverHeavier
  intro s t herr hne hwf hexec
  obtain rfl := Host.Outcome.next.inj ((exec_build_of_tableWf herr hne hwf).symm.trans hexec)
  rw [withBlk_blk]
  have hcap := (records_length s.blk).symm.trans_le (tableWf_length _ hwf)
  obtain ⟨hpos, -, hmerged, hsingle, -⟩ := builtBlock_arenaInv hne hcap
  refine ⟨rfl, fun htwo => ?_, fun i hge hlt => ?_⟩
  · obtain ⟨hcount, -⟩ := hmerged htwo
    exact ⟨hcount, fun i l r hge hlt => builtBlock_merges htwo hcap hge (hlt.trans_eq hcount)⟩
  · obtain hone | htwo := hpos.eq_or_lt
    · obtain ⟨hcount, -, -, -, hleft, hright, -⟩ := hsingle hone.symm
      rw [hcount] at hlt
      obtain rfl : i = 1 := Nat.le_antisymm (Nat.le_of_lt_succ hlt) (hone.trans_le hge)
      rw [hleft, hright]
    · obtain ⟨hcount, -⟩ := hmerged htwo
      obtain ⟨-, -, -, hless, -⟩ := builtBlock_merges htwo hcap hge (hlt.trans_eq hcount) rfl rfl
      exact freq_le_of_keyLess hless

/-- Settles O32: BUILD reads of the block only whether the table is empty, which its records say, and the records
(`build_tree_congr`). -/
theorem buildDependsOnTheRecordsAlone : Obligations.BuildDependsOnTheRecordsAlone := by
  unfold Obligations.BuildDependsOnTheRecordsAlone
  intro s s' t t' herr herr' hrecords hexec hexec'
  obtain rfl := Host.Outcome.next.inj ((exec_build herr rfl).symm.trans hexec)
  obtain rfl := Host.Outcome.next.inj ((exec_build herr' rfl).symm.trans hexec')
  exact build_tree_congr s.cfg s'.cfg hrecords

end

section
/-! PROOFS. The family 44_genc.md, the tree as its words: the bit strings that lead from a node to the leaves below it,
and that GENC records exactly them (R210, R211). -/

namespace Sys2Proof.Machine

/-! ## A bit string and its CT entry (10_state.md R52) -/

theorem bitsVal_append_singleton (word : List Bool) (b : Bool) :
    bitsVal (word ++ [b]) = Nat.bit b (bitsVal word) := by
  simp [bitsVal, Nat.bit_val]

/-- The bits of a string's value are the string, the last bit being bit 0. -/
theorem testBit_bitsVal (word : List Bool) :
    ∀ i (h : i < word.length), (bitsVal word).testBit (word.length - 1 - i) = word[i] := by
  induction word using List.reverseRecOn with
  | nil => exact fun i h => absurd h (Nat.not_lt_zero i)
  | append_singleton word b ih =>
    intro i h
    simp only [bitsVal_append_singleton, List.length_append, List.length_singleton, Nat.add_sub_cancel] at h ⊢
    obtain hi | rfl := Nat.lt_succ_iff_lt_or_eq.1 h
    · obtain ⟨j, hj⟩ : ∃ j, word.length - i = j + 1 := ⟨word.length - 1 - i, by omega⟩
      rw [hj, Nat.testBit_bit_succ, List.getElem_append_left hi, ← ih i hi]
      congr 1
      omega
    · simp

/-- A code of at most CODE_MAX bits is read back from its entry. -/
theorem codeBits_codeEntry {word : List Bool} (h : word.length ≤ 255) : codeBits (codeEntry word) = word := by
  have hlen : (codeEntry word).len.toNat = word.length := bitVec_toNat_ofNat_of_lt (Nat.lt_succ_of_le h)
  refine List.ext_getElem (by rw [codeBits_length, hlen]) fun i h1 h2 => ?_
  rw [← testBit_bitsVal word i h2]
  have hbit : word.length - 1 - i < 255 := by omega
  simp only [codeBits, List.getElem_map, List.getElem_range, hlen]
  exact (BitVec.getLsbD_ofNat ..).trans (by simp [hbit])

/-! ## Following bits down the tree (R211, R214) -/

theorem leadsTo_cons (node : Cells Node) (n : NodeIndex) (bit : Bool) (rest : List Bool) :
    leadsTo node n (bit :: rest)
      = if (Cells.read blankNode node (child node n bit).toNat).leaf then
          (if rest = [] then some (Cells.read blankNode node (child node n bit).toNat).sym else none)
        else leadsTo node (child node n bit) rest := rfl

/-- Of bits that lead to a leaf none begin with others that do. -/
theorem eq_of_prefix_of_leadsTo {node : Cells Node} {x y : Byte} {c : List Bool} :
    ∀ {n : NodeIndex} {d : List Bool}, leadsTo node n c = some x → leadsTo node n d = some y → c <+: d → c = d := by
  induction c with
  | nil => exact fun hc => nomatch hc
  | cons bit c ih =>
    intro n d hc hd hprefix
    obtain ⟨d, rfl, hrest⟩ := List.cons_prefix_iff.1 hprefix
    rw [leadsTo_cons] at hc hd
    split at hc <;> rename_i hleaf
    · obtain rfl : c = [] := by by_contra hne; simp [hne] at hc
      obtain rfl : d = [] := by by_contra hne; simp [hleaf, hne] at hd
      rfl
    · rw [if_neg hleaf] at hd
      rw [ih hc hd hrest]

/-! ## The words below a node -/

/-- The words below an internal node: 0 before those below its left child, then 1 before those below its right. -/
def forkWords (wl wr : List (List Bool × Byte)) : List (List Bool × Byte) :=
  wl.map (Prod.map (List.cons false) id) ++ wr.map (Prod.map (List.cons true) id)

/-- `ws` are the words below node `n`: the bits from `n` to each leaf with the leaf's symbol, in the order of GENC's
walk (R210, R211). -/
inductive LeafWords (node : Cells Node) : NodeIndex → List (List Bool × Byte) → Prop
  | leaf (n : NodeIndex) (hleaf : (Cells.read blankNode node n.toNat).leaf = true) :
      LeafWords node n [([], (Cells.read blankNode node n.toNat).sym)]
  | fork (n : NodeIndex) (wl wr : List (List Bool × Byte)) (hleaf : (Cells.read blankNode node n.toNat).leaf = false)
      (hl : LeafWords node (child node n false) wl) (hr : LeafWords node (child node n true) wr) :
      LeafWords node n (forkWords wl wr)

theorem LeafWords.leaf_of_read {node : Cells Node} {n : NodeIndex} {x : Node}
    (hread : Cells.read blankNode node n.toNat = x) (hleaf : x.leaf = true) : LeafWords node n [([], x.sym)] := by
  subst hread
  exact .leaf n hleaf

theorem LeafWords.fork_of_read {node : Cells Node} {n : NodeIndex} {x : Node} {wl wr : List (List Bool × Byte)}
    (hread : Cells.read blankNode node n.toNat = x) (hleaf : x.leaf = false) (hl : LeafWords node x.left wl)
    (hr : LeafWords node x.right wr) : LeafWords node n (forkWords wl wr) := by
  subst hread
  exact .fork n wl wr hleaf hl hr

@[simp] theorem forkWords_length (wl wr : List (List Bool × Byte)) :
    (forkWords wl wr).length = wl.length + wr.length := by
  simp [forkWords]

theorem forkWords_symbols (wl wr : List (List Bool × Byte)) :
    (forkWords wl wr).map Prod.snd = wl.map Prod.snd ++ wr.map Prod.snd := by
  simp [forkWords, Function.comp_def]

theorem mem_forkWords {wl wr : List (List Bool × Byte)} {w : List Bool × Byte} :
    w ∈ forkWords wl wr ↔ (∃ v ∈ wl, w = (false :: v.1, v.2)) ∨ ∃ v ∈ wr, w = (true :: v.1, v.2) := by
  simp [forkWords, Prod.map, eq_comm]

namespace LeafWords
variable {node : Cells Node} {n : NodeIndex} {ws : List (List Bool × Byte)}

theorem length_pos (h : LeafWords node n ws) : 0 < ws.length := by
  induction h with
  | leaf => exact Nat.one_pos
  | fork n wl wr hleaf hl hr ihl ihr => rw [forkWords_length]; omega

/-- A leaf has one word. -/
theorem not_leaf_of_two_le (h : LeafWords node n ws) (htwo : 2 ≤ ws.length) :
    (Cells.read blankNode node n.toNat).leaf = false := by
  cases h with
  | leaf => simp at htwo
  | fork _ _ _ hleaf => exact hleaf

/-- A word has fewer bits than there are words: each of its bits leaves a subtree aside. -/
theorem word_length_lt (h : LeafWords node n ws) : ∀ w ∈ ws, w.1.length < ws.length := by
  induction h with
  | leaf => simp
  | fork n wl wr hleaf hl hr ihl ihr =>
    have hlpos := hl.length_pos
    have hrpos := hr.length_pos
    intro w hw
    rw [forkWords_length]
    obtain ⟨v, hv, rfl⟩ | ⟨v, hv, rfl⟩ := mem_forkWords.1 hw
    · have := ihl v hv
      simp only [List.length_cons]
      omega
    · have := ihr v hv
      simp only [List.length_cons]
      omega

/-- A bit, then a word below the child it goes to, leads to the word's symbol if that child's own words do. -/
theorem leadsTo_cons_of_child {bit : Bool} (h : LeafWords node (child node n bit) ws)
    (ih : (Cells.read blankNode node (child node n bit).toNat).leaf = false →
      ∀ w ∈ ws, leadsTo node (child node n bit) w.1 = some w.2) :
    ∀ w ∈ ws, leadsTo node n (bit :: w.1) = some w.2 := by
  intro w hw
  rw [leadsTo_cons]
  cases h with
  | leaf _ hleaf =>
    obtain rfl := List.mem_singleton.1 hw
    rw [if_pos hleaf, if_pos rfl]
  | fork _ _ _ hinternal =>
    rw [if_neg (by simp [hinternal])]
    exact ih hinternal w hw

/-- Each word below an internal node leads to its leaf (R214). -/
theorem leadsTo_word (h : LeafWords node n ws) :
    (Cells.read blankNode node n.toNat).leaf = false → ∀ w ∈ ws, leadsTo node n w.1 = some w.2 := by
  induction h with
  | leaf n hleaf => exact fun hinternal => absurd (hleaf.symm.trans hinternal) (by decide)
  | fork n wl wr hleaf hl hr ihl ihr =>
    intro _ w hw
    obtain ⟨v, hv, rfl⟩ | ⟨v, hv, rfl⟩ := mem_forkWords.1 hw
    · exact hl.leadsTo_cons_of_child ihl v hv
    · exact hr.leadsTo_cons_of_child ihr v hv

/-- The words are complete: their weights 2^(-length) sum to 1 (R215(d)). -/
theorem kraft (h : LeafWords node n ws) :
    ∀ m, (∀ w ∈ ws, w.1.length ≤ m) → (ws.map (fun w => 2 ^ (m - w.1.length))).sum = 2 ^ m := by
  induction h with
  | leaf => simp
  | fork n wl wr hleaf hl hr ihl ihr =>
    intro m hm
    have hleft : ∀ v ∈ wl, v.1.length + 1 ≤ m := fun v hv => hm _ (mem_forkWords.2 (.inl ⟨v, hv, rfl⟩))
    have hright : ∀ v ∈ wr, v.1.length + 1 ≤ m := fun v hv => hm _ (mem_forkWords.2 (.inr ⟨v, hv, rfl⟩))
    obtain ⟨v, hv⟩ := List.exists_mem_of_length_pos hl.length_pos
    obtain ⟨k, rfl⟩ : ∃ k, m = k + 1 := Nat.exists_eq_add_one.2 ((Nat.succ_pos _).trans_le (hleft v hv))
    have hl := ihl k fun v hv => Nat.le_of_succ_le_succ (hleft v hv)
    have hr := ihr k fun v hv => Nat.le_of_succ_le_succ (hright v hv)
    simp only [forkWords, List.map_append, List.map_map, List.sum_append, Function.comp_def, Prod.map_fst,
      List.length_cons, Nat.add_sub_add_right, hl, hr]
    ring

end LeafWords

/-! ## GENC's walk records the words (R210, R213) -/

/-- Record a code for each word in turn, `path` standing before it. -/
def recordWords (path : List Bool) (ws : List (List Bool × Byte)) (ct : Cells CtEntry) : Cells CtEntry :=
  ws.foldl (fun ct w => recordCode w.2 (path ++ w.1) ct) ct

theorem recordWords_forkWords (path : List Bool) (wl wr : List (List Bool × Byte)) (ct : Cells CtEntry) :
    recordWords path (forkWords wl wr) ct
      = recordWords (path ++ [true]) wr (recordWords (path ++ [false]) wl ct) := by
  simp [recordWords, forkWords, List.foldl_map]

/-- A walk with levels enough for every word records the words. -/
theorem LeafWords.walk_eq {node : Cells Node} {n : NodeIndex} {ws : List (List Bool × Byte)} (h : LeafWords node n ws) :
    ∀ depth path ct, (∀ w ∈ ws, w.1.length < depth) → walk node depth n path ct = recordWords path ws ct := by
  induction h with
  | leaf n hleaf =>
    intro depth path ct hdepth
    obtain ⟨k, rfl⟩ : ∃ k, depth = k + 1 := Nat.exists_eq_add_one.2 (hdepth _ List.mem_cons_self)
    simp [walk, hleaf, recordWords]
  | fork n wl wr hleaf hl hr ihl ihr =>
    intro depth path ct hdepth
    have hleft : ∀ v ∈ wl, v.1.length + 1 < depth := fun v hv => hdepth _ (mem_forkWords.2 (.inl ⟨v, hv, rfl⟩))
    have hright : ∀ v ∈ wr, v.1.length + 1 < depth := fun v hv => hdepth _ (mem_forkWords.2 (.inr ⟨v, hv, rfl⟩))
    obtain ⟨v, hv⟩ := List.exists_mem_of_length_pos hl.length_pos
    obtain ⟨k, rfl⟩ : ∃ k, depth = k + 1 := Nat.exists_eq_add_one.2 ((Nat.zero_le _).trans_lt (hleft v hv))
    rw [recordWords_forkWords, ← ihl k _ ct fun v hv => Nat.lt_of_succ_lt_succ (hleft v hv),
      ← ihr k _ _ fun v hv => Nat.lt_of_succ_lt_succ (hright v hv), walk, if_neg (by simp [hleaf])]
    rfl

/-- Recording changes the entry of its own symbol, and that only when it holds no code. -/
theorem recordCode_read {ct : Cells CtEntry} (hwf : Cells.wf noCode ct = true) (sym x : Byte) (path : List Bool) :
    Cells.read noCode (recordCode sym path ct) x.toNat
      = if sym = x ∧ (Cells.read noCode ct x.toNat).valid = false then codeEntry path
        else Cells.read noCode ct x.toNat := by
  unfold recordCode
  by_cases hsym : sym = x
  · subst hsym
    split <;> rename_i hvalid
    · simp [hvalid]
    · rw [cells_read_write_same ct _ _ hwf, if_pos ⟨rfl, by simpa using hvalid⟩]
  · split <;> rw [if_neg (fun h => hsym h.1)]
    exact cells_read_write_other ct _ _ _ fun heq => hsym (BitVec.eq_of_toNat_eq heq.symm)

/-- The first word of a symbol gives its code, unless it has one already (R213). -/
theorem recordWords_read (path : List Bool) (x : Byte) (ws : List (List Bool × Byte)) :
    ∀ ct : Cells CtEntry, Cells.wf noCode ct = true →
      Cells.read noCode (recordWords path ws ct) x.toNat
        = if (Cells.read noCode ct x.toNat).valid then Cells.read noCode ct x.toNat
          else ((ws.find? (fun w => w.2 == x)).map (fun w => codeEntry (path ++ w.1))).getD
            (Cells.read noCode ct x.toNat) := by
  induction ws with
  | nil => simp [recordWords]
  | cons w ws ih =>
    intro ct hwf
    have hstep : recordWords path (w :: ws) ct = recordWords path ws (recordCode w.2 (path ++ w.1) ct) := rfl
    rw [hstep, ih _ (recordCode_wf _ _ _ hwf), recordCode_read hwf]
    by_cases hsym : w.2 = x
    · cases hvalid : (Cells.read noCode ct x.toNat).valid <;> simp [hsym, hvalid, codeEntry]
    · simp [hsym]

/-- The code table of a tree of at most 256 leaves: a symbol's code is its first word (R210, R213). -/
theorem LeafWords.codesOf_read {node : Cells Node} {root : NodeIndex} {ws : List (List Bool × Byte)}
    (h : LeafWords node root ws) (hcap : ws.length ≤ 256) (x : Byte) :
    Cells.read noCode (codesOf node root) x.toNat
      = ((ws.find? (fun w => w.2 == x)).map (fun w => codeEntry w.1)).getD noCode := by
  have hwalk : codesOf node root = recordWords [] ws [] :=
    h.walk_eq _ _ _ fun w hw => (h.word_length_lt w hw).trans_le hcap
  rw [hwalk, recordWords_read _ _ _ _ rfl]
  simp [noCode]

end Sys2Proof.Machine
end

section
/-! PROOFS. The family 44_genc.md, the words of BUILD's tree: every merge keeps the symbols of the table spread over the
words of the nodes waiting in PQ, so the root's words have them all. -/

namespace Sys2Proof.Machine

/-! ## The words of the nodes in PQ -/

theorem ofList_read_of_lt (arena more : List Node) {i : Nat} (h : i < arena.length) :
    Cells.read blankNode (Cells.ofList blankNode (arena ++ more)) i = arenaAt arena i :=
  (cells_read_ofList _ i).trans (arenaAt_append_left arena more i h)

/-- Node `x` of the arena has the words `ws`, and keeps them when the arena grows. -/
def HasWords (arena : List Node) (x : Nat) (ws : List (List Bool × Byte)) : Prop :=
  ∀ more, LeafWords (Cells.ofList blankNode (arena ++ more)) (BitVec.ofNat 9 x) ws

theorem HasWords.append {arena : List Node} {x : Nat} {ws : List (List Bool × Byte)} (h : HasWords arena x ws)
    (n : Node) : HasWords (arena ++ [n]) x ws := by
  intro more
  rw [List.append_assoc]
  exact h _

theorem hasWords_leaf {arena : List Node} {x : Nat} {r : FtRecord} (hx : x < arena.length) (hcap : arena.length ≤ 2 ^ 9)
    (hleaf : arenaAt arena x = leafOf r) : HasWords arena x [([], r.sym)] := by
  intro more
  refine LeafWords.leaf_of_read (x := leafOf r) ?_ rfl
  rw [bitVec_toNat_ofNat_of_lt (hx.trans_le hcap), ofList_read_of_lt _ _ hx, hleaf]

/-- The node of a merge has the words of its children behind a bit 0 and a bit 1 (44_genc.md R211). -/
theorem HasWords.merge {arena : List Node} {a b : Nat} {wa wb : List (List Bool × Byte)} (ha : HasWords arena a wa)
    (hb : HasWords arena b wb) (hcap : arena.length < 2 ^ 9) :
    HasWords (arena ++ [mergeNode arena a b]) arena.length (forkWords wa wb) := by
  intro more
  refine LeafWords.fork_of_read (x := mergeNode arena a b) ?_ rfl ?_ ?_
  · rw [bitVec_toNat_ofNat_of_lt hcap, ofList_read_of_lt _ _ (by simp), arenaAt_append_length]
  · exact ha.append _ more
  · exact hb.append _ more

/-- The nodes waiting in PQ have words, whose symbols together are those of the table, each as often. -/
def PqHasWords (recs : List FtRecord) (arena : List Node) (pq : List Nat) : Prop :=
  ∃ wss, List.Forall₂ (HasWords arena) pq wss ∧ (wss.flatten.map Prod.snd).Perm (recs.map FtRecord.sym)

theorem pqHasWords_leaves (recs : List FtRecord) (hcap : recs.length ≤ 256) :
    PqHasWords recs (recs.map leafOf) (List.range recs.length) := by
  refine ⟨recs.map fun r => [([], r.sym)], List.forall₂_iff_get.2 ⟨by simp, fun i h1 h2 => ?_⟩, ?_⟩
  · have hi : i < recs.length := by simpa using h1
    simpa using hasWords_leaf (r := recs[i]) (by simpa using hi) (by simp; omega) (by simp [arenaAt, hi])
  · simp [List.flatten_eq_flatMap, List.flatMap_map, ← List.map_eq_flatMap, Function.comp_def]

/-- A merge moves the words of two waiting nodes to the new one and leaves the symbols as they are. -/
theorem PqHasWords.merge {recs : List FtRecord} {arena : List Node} {pq pq2 : List Nat} {a b : Nat}
    (h : PqHasWords recs arena pq) (hperm : pq.Perm (a :: b :: pq2)) (hcap : arena.length < 2 ^ 9) :
    PqHasWords recs (arena ++ [mergeNode arena a b]) (pqInsert arena.length pq2) := by
  obtain ⟨wss, hwords, hsymbols⟩ := h
  obtain ⟨wss', hwords', hperm'⟩ := List.perm_comp_forall₂ hperm.symm hwords
  obtain ⟨wa, _, ha, hrest, rfl⟩ := List.forall₂_cons_left_iff.1 hwords'
  obtain ⟨wb, wss2, hb, hothers, rfl⟩ := List.forall₂_cons_left_iff.1 hrest
  have hothers := hothers.imp fun _ _ hw => hw.append (mergeNode arena a b)
  refine ⟨wss2 ++ [forkWords wa wb], List.rel_append hothers (.cons (ha.merge hb hcap) .nil), ?_⟩
  refine List.Perm.trans ?_ ((hperm'.flatten.map Prod.snd).trans hsymbols)
  simp only [List.flatten_append, List.flatten_cons, List.flatten_nil, List.append_nil, List.map_append,
    forkWords_symbols, ← List.append_assoc]
  rw [List.append_assoc]
  exact List.perm_append_comm

/-! ## The words of the root -/

/-- The words under the root of BUILD's tree: of one record they are 0 and 1, for its symbol both (43_build.md R196); of
two records or more they have each symbol of the table once. -/
structure TableWords (recs : List FtRecord) (node : Cells Node) (root : NodeIndex) (ws : List (List Bool × Byte)) :
    Prop where
  words : LeafWords node root ws
  symbols : (∃ r, recs = [r] ∧ ws = [([false], r.sym), ([true], r.sym)])
    ∨ (2 ≤ recs.length ∧ recs.length ≤ 256 ∧ (ws.map Prod.snd).Perm (recs.map FtRecord.sym))

theorem tableWords_of_one (r : FtRecord) :
    TableWords [r] (Cells.ofList blankNode (buildTree [r]).1) (BitVec.ofNat 9 (buildTree [r]).2)
      [([false], r.sym), ([true], r.sym)] := by
  have hleaf : LeafWords (Cells.ofList blankNode (buildTree [r]).1) 0 [([], r.sym)] :=
    LeafWords.leaf_of_read (x := leafOf r) (cells_read_ofList _ 0) rfl
  exact ⟨LeafWords.fork_of_read (x := syntheticRoot (leafOf r)) (cells_read_ofList _ 1) rfl hleaf hleaf,
    .inl ⟨r, rfl, rfl⟩⟩

theorem exists_tableWords_of_two_le (recs : List FtRecord) (htwo : 2 ≤ recs.length) (hcap : recs.length ≤ 256) :
    ∃ ws, TableWords recs (Cells.ofList blankNode (buildTree recs).1) (BitVec.ofNat 9 (buildTree recs).2) ws := by
  have hne : List.range recs.length ≠ [] := by rw [ne_eq, List.range_eq_nil]; omega
  have hmerge : ∀ arena pq a b pq2, MergeInv recs arena pq ∧ PqHasWords recs arena pq → pq.Perm (a :: b :: pq2) →
      MergeInv recs (arena ++ [mergeNode arena a b]) (pqInsert arena.length pq2)
        ∧ PqHasWords recs (arena ++ [mergeNode arena a b]) (pqInsert arena.length pq2) := by
    rintro arena pq a b pq2 ⟨hinv, hwords⟩ hperm
    have hsize := hinv.size
    have hlen := hperm.length_eq
    simp only [List.length_cons] at hlen
    exact ⟨hinv.merge hcap hperm, hwords.merge hperm (by omega)⟩
  obtain ⟨arena, x, hloop, -, wss, hwords, hsymbols⟩ := mergeLoop_induction _ hmerge recs.length _ _ hne (by simp)
    ⟨mergeInv_leaves recs, pqHasWords_leaves recs hcap⟩
  obtain ⟨ws, _, hroot, hnil, rfl⟩ := List.forall₂_cons_left_iff.1 hwords
  obtain rfl := List.forall₂_nil_left_iff.1 hnil
  have htree : buildTree recs = (arena, x) := by
    rw [buildTree_of_two_le recs htwo, hloop, extractMin_singleton]
    rfl
  rw [htree]
  exact ⟨ws, by simpa using hroot [], .inr ⟨htwo, hcap, by simpa using hsymbols⟩⟩

/-- BUILD's tree of 1 to 256 records has its words. -/
theorem exists_tableWords (recs : List FtRecord) (hpos : 0 < recs.length) (hcap : recs.length ≤ 256) :
    ∃ ws, TableWords recs (Cells.ofList blankNode (buildTree recs).1) (BitVec.ofNat 9 (buildTree recs).2) ws := by
  obtain hone | htwo := Nat.eq_or_lt_of_le (Nat.succ_le_of_lt hpos)
  · obtain ⟨r, rfl⟩ := List.length_eq_one_iff.1 hone.symm
    exact ⟨_, tableWords_of_one r⟩
  · exact exists_tableWords_of_two_le recs htwo hcap

namespace TableWords
variable {recs : List FtRecord} {node : Cells Node} {root : NodeIndex} {ws : List (List Bool × Byte)}

theorem symbols_perm (h : TableWords recs node root ws) (htwo : 2 ≤ recs.length) :
    (ws.map Prod.snd).Perm (recs.map FtRecord.sym) := by
  obtain ⟨r, rfl, -⟩ | ⟨-, -, hperm⟩ := h.symbols
  · simp at htwo
  · exact hperm

theorem length_eq (h : TableWords recs node root ws) (htwo : 2 ≤ recs.length) : ws.length = recs.length := by
  simpa using (h.symbols_perm htwo).length_eq

theorem two_le_length (h : TableWords recs node root ws) : 2 ≤ ws.length := by
  obtain ⟨r, -, rfl⟩ | ⟨htwo, -, -⟩ := h.symbols
  · exact le_rfl
  · rwa [h.length_eq htwo]

theorem length_le (h : TableWords recs node root ws) : ws.length ≤ 256 := by
  obtain ⟨r, -, rfl⟩ | ⟨htwo, hcap, -⟩ := h.symbols
  · simp
  · rwa [h.length_eq htwo]

/-- A word has at most CODE_MAX bits (R215 (b)). -/
theorem word_length_le (h : TableWords recs node root ws) {w : List Bool × Byte} (hw : w ∈ ws) : w.1.length ≤ 255 :=
  Nat.le_of_lt_succ ((h.words.word_length_lt w hw).trans_le h.length_le)

theorem mem_symbols_iff (h : TableWords recs node root ws) (x : Byte) :
    x ∈ ws.map Prod.snd ↔ x ∈ recs.map FtRecord.sym := by
  obtain ⟨r, rfl, rfl⟩ | ⟨-, -, hperm⟩ := h.symbols
  · simp
  · exact hperm.mem_iff

theorem leadsTo_word (h : TableWords recs node root ws) {w : List Bool × Byte} (hw : w ∈ ws) :
    leadsTo node root w.1 = some w.2 :=
  h.words.leadsTo_word (h.words.not_leaf_of_two_le h.two_le_length) w hw

end TableWords

end Sys2Proof.Machine
end

section
/-! PROOFS. The family 44_genc.md: the code table GENC records (R210 to R215). -/

namespace Sys2Proof.Machine

/-- The block GENC leaves when the tree is valid (R210). -/
def codedBlock (b : Block) : Block := { b with ct := codesOf b.node b.root, ctValid := true }

theorem genc_of_tree (c : Config) {b : Block} (h : b.treeValid = true) : genc c b = .ok (codedBlock b) := if_pos h

theorem genc_of_no_tree (c : Config) {b : Block} (h : b.treeValid = false) : genc c b = raise .sequence 0x12 b :=
  if_neg (by simp [gencReady, h])

theorem exec_genc {s : State} {r : Result} (herr : s.blk.err = false) (hgenc : genc s.cfg s.blk = r) :
    exec .genc s = .next (s.withBlk r.block) :=
  congrArg Host.Outcome.next (gated_of_clear_of_eq herr hgenc)

/-- The tree that TREE_VALID speaks of (10_state.md R34) has its words. -/
theorem exists_tableWords_of_treeFaithful {b : Block} (h : treeFaithful b) :
    ∃ ws, TableWords b.records b.node b.root ws := by
  obtain ⟨hne, hcheck, hnode, -, hroot⟩ := h
  rw [hnode, hroot]
  refine exists_tableWords b.records ?_ (tableWf_length _ ((ftCheck_none _).1 hcheck))
  exact List.length_pos_of_ne_nil (mt (records_eq_nil_iff b).1 hne)

namespace TableWords
variable {b : Block} {ws : List (List Bool × Byte)} (h : TableWords b.records b.node b.root ws)
include h

theorem code_eq (x : Byte) : (codedBlock b).code x
    = ((ws.find? (fun w => w.2 == x)).map (fun w => codeEntry w.1)).getD noCode :=
  h.words.codesOf_read h.length_le x

/-- A code is a word of its symbol. -/
theorem exists_word_of_valid {x : Byte} (hvalid : ((codedBlock b).code x).valid = true) :
    ∃ w ∈ ws, w.2 = x ∧ (codedBlock b).code x = codeEntry w.1 := by
  rw [h.code_eq] at hvalid ⊢
  cases hfind : ws.find? (fun w => w.2 == x) with
  | none => simp [hfind, noCode] at hvalid
  | some w =>
    exact ⟨w, List.mem_of_find?_eq_some hfind, by simpa using List.find?_some hfind, rfl⟩

/-- Exactly the symbols of FT have a code (R214, R215 (a)). -/
theorem code_valid_iff (x : Byte) :
    ((codedBlock b).code x).valid = true ↔ x ∈ b.records.map FtRecord.sym := by
  rw [← h.mem_symbols_iff]
  constructor
  · intro hvalid
    obtain ⟨w, hw, rfl, -⟩ := h.exists_word_of_valid hvalid
    exact List.mem_map_of_mem hw
  · intro hmem
    obtain ⟨w, hw, rfl⟩ := List.mem_map.1 hmem
    have hfound : (ws.find? (fun v => v.2 == w.2)).isSome := List.find?_isSome.2 ⟨w, hw, by simp⟩
    obtain ⟨v, hv⟩ := Option.isSome_iff_exists.1 hfound
    rw [h.code_eq, hv]
    rfl

theorem exists_word_of_codeBits {x : Byte} (hvalid : ((codedBlock b).code x).valid = true) :
    ∃ w ∈ ws, w.2 = x ∧ codeBits ((codedBlock b).code x) = w.1 := by
  obtain ⟨w, hw, hsym, hcode⟩ := h.exists_word_of_valid hvalid
  exact ⟨w, hw, hsym, by rw [hcode, codeBits_codeEntry (h.word_length_le hw)]⟩

/-- A code's bits, followed down from ROOT, lead to its symbol (R214). -/
theorem leadsTo_codeBits {x : Byte} (hvalid : ((codedBlock b).code x).valid = true) :
    leadsTo b.node b.root (codeBits ((codedBlock b).code x)) = some x := by
  obtain ⟨w, hw, rfl, hbits⟩ := h.exists_word_of_codeBits hvalid
  rw [hbits]
  exact h.leadsTo_word hw

/-- A code has 1 to CODE_MAX bits, and fewer than there are symbols when there are two or more (R215 (b)). -/
theorem code_length {x : Byte} (hvalid : ((codedBlock b).code x).valid = true) :
    1 ≤ ((codedBlock b).code x).len.toNat
      ∧ (2 ≤ b.ftCount.toNat → ((codedBlock b).code x).len.toNat ≤ b.ftCount.toNat - 1)
      ∧ ((codedBlock b).code x).len.toNat ≤ 255 := by
  obtain ⟨w, hw, -, hbits⟩ := h.exists_word_of_codeBits hvalid
  rw [← codeBits_length, hbits]
  refine ⟨?_, fun htwo => ?_, h.word_length_le hw⟩
  · refine List.length_pos_of_ne_nil fun hnil => ?_
    have hleads := h.leadsTo_word hw
    rw [hnil] at hleads
    cases hleads
  · have hlt := h.words.word_length_lt w hw
    rw [h.length_eq (by rwa [records_length]), records_length] at hlt
    exact Nat.le_sub_one_of_lt hlt

/-- No code begins with another symbol's, since each leads to a leaf of its own (R215 (c)). -/
theorem eq_of_codeBits_prefix {x y : Byte} (hx : ((codedBlock b).code x).valid = true)
    (hy : ((codedBlock b).code y).valid = true)
    (hprefix : codeBits ((codedBlock b).code x) <+: codeBits ((codedBlock b).code y)) : x = y := by
  have hleadsX := h.leadsTo_codeBits hx
  have hleadsY := h.leadsTo_codeBits hy
  rw [eq_of_prefix_of_leadsTo hleadsX hleadsY hprefix] at hleadsX
  exact Option.some.inj (hleadsX.symm.trans hleadsY)

/-- With no symbol repeated, every word of two records or more is a code. -/
theorem code_of_word (hwf : tableWf b.records) (htwo : 2 ≤ b.ftCount.toNat) {w : List Bool × Byte} (hw : w ∈ ws) :
    (codedBlock b).code w.2 = codeEntry w.1 := by
  obtain ⟨-, hnodup⟩ := hwf
  have hwords : (ws.map Prod.snd).Nodup := (h.symbols_perm (by rwa [records_length])).nodup_iff.2 hnodup
  have hvalid := (h.code_valid_iff w.2).2 ((h.mem_symbols_iff w.2).1 (List.mem_map_of_mem hw))
  obtain ⟨v, hv, hsym, hcode⟩ := h.exists_word_of_valid hvalid
  rw [hcode, List.inj_on_of_nodup_map hwords hv hw hsym]

/-- The codes of two symbols or more are complete (R215 (d)). -/
theorem kraft_codes (hwf : tableWf b.records) (htwo : 2 ≤ b.ftCount.toNat) :
    (b.records.map (fun r => 2 ^ (255 - ((codedBlock b).code r.sym).len.toNat))).sum = 2 ^ 255 := by
  have hlen : ∀ w ∈ ws, ((codedBlock b).code w.2).len.toNat = w.1.length := fun w hw => by
    rw [h.code_of_word hwf htwo hw, ← codeBits_length, codeBits_codeEntry (h.word_length_le hw)]
  have hperm := (h.symbols_perm (by rwa [records_length])).map
    fun x => 2 ^ (255 - ((codedBlock b).code x).len.toNat)
  simp only [List.map_map, Function.comp_def] at hperm
  rw [← hperm.sum_eq, ← h.words.kraft 255 fun w hw => h.word_length_le hw]
  exact congrArg List.sum (List.map_congr_left fun w hw => by rw [hlen w hw])

/-- The code of a single symbol is 0, the first of its two words (R213, R215 (e)). -/
theorem codeBits_of_single (hone : b.ftCount.toNat = 1) {x : Byte} (hvalid : ((codedBlock b).code x).valid = true) :
    codeBits ((codedBlock b).code x) = [false] := by
  rw [h.code_valid_iff] at hvalid
  obtain ⟨r, hr, rfl⟩ | ⟨htwo, -⟩ := h.symbols
  · obtain rfl : x = r.sym := by simpa [hr] using hvalid
    rw [h.code_eq, List.find?_cons_of_pos (by simp)]
    exact codeBits_codeEntry (by simp)
  · rw [records_length] at htwo
    omega

end TableWords

end Sys2Proof.Machine

open Sys2Proof Sys2Proof.Machine

/-- Settles O33: the tree that TREE_VALID speaks of has words that lead from ROOT to its leaves, for the symbols of FT
(`exists_tableWords_of_treeFaithful`), and GENC's codes are words of their symbols
(`TableWords.exists_word_of_valid`). -/
theorem gencRecordsThePathsToTheLeaves : Obligations.GencRecordsThePathsToTheLeaves := by
  unfold Obligations.GencRecordsThePathsToTheLeaves
  refine ⟨fun s herr hno => exec_genc herr (genc_of_no_tree _ hno), fun s herr htree hflags => ?_⟩
  obtain ⟨-, hfaithful, -⟩ := hflags
  obtain ⟨ws, hwords⟩ := exists_tableWords_of_treeFaithful (hfaithful htree)
  exact ⟨_, exec_genc herr (genc_of_tree _ htree), rfl, rfl, fun x => hwords.leadsTo_codeBits, hwords.code_valid_iff,
    rfl⟩

/-- Settles O34: the codes are the words of the tree, which are shorter than their number, lead to different leaves, and
split the weight of a node between its children (`LeafWords.word_length_lt`, `eq_of_prefix_of_leadsTo`,
`LeafWords.kraft`). -/
theorem codesAreACompletePrefixCode : Obligations.CodesAreACompletePrefixCode := by
  unfold Obligations.CodesAreACompletePrefixCode
  intro s t herr htree hflags hexec
  obtain rfl := Host.Outcome.next.inj ((exec_genc herr (genc_of_tree _ htree)).symm.trans hexec)
  obtain ⟨-, hfaithful, -⟩ := hflags
  obtain ⟨ws, hwords⟩ := exists_tableWords_of_treeFaithful (hfaithful htree)
  obtain ⟨-, hcheck, -⟩ := hfaithful htree
  rw [result_ok_block, withBlk_blk]
  exact ⟨hwords.code_valid_iff, fun x => hwords.code_length,
    fun x y hx hy hne hprefix => hne (hwords.eq_of_codeBits_prefix hx hy hprefix),
    hwords.kraft_codes ((ftCheck_none _).1 hcheck), fun hone x => hwords.codeBits_of_single hone⟩

end

section
/-! PROOFS. The family 44_genc.md, the code table of a container (R216): the bytes PACK writes (20_memory.md R84), and
the table PARSE reads from them. -/

namespace Sys2Proof.Machine

/-! ## The bytes of a container -/

theorem cells_writeList_append {α : Type} [DecidableEq α] {d : α} (l l' : List α) :
    ∀ (m : Cells α) (a : Nat),
      Cells.writeList d m a (l ++ l') = Cells.writeList d (Cells.writeList d m a l) (a + l.length) l' := by
  induction l with
  | nil => exact fun _ _ => rfl
  | cons v l ih =>
    intro m a
    rw [List.cons_append, Cells.writeList, Cells.writeList, ih, List.length_cons, Nat.add_assoc, Nat.add_comm 1]

theorem recordBytes_eq (r : FtRecord) : recordBytes r = r.sym :: bytesOf 4 r.cnt.toNat := by
  simp [recordBytes, bytesOf]

@[simp] theorem recordBytes_length (r : FtRecord) : (recordBytes r).length = 5 := rfl

theorem headerBytes_eq (recs : List FtRecord) :
    headerBytes recs = bytesOf 2 recs.length ++ recs.flatMap recordBytes := by
  simp [headerBytes, bytesOf]

@[simp] theorem headerBytes_length (recs : List FtRecord) : (headerBytes recs).length = headerEnd recs.length := by
  simp [headerBytes_eq, List.length_flatMap, headerEnd, Nat.mul_comm]

/-- The records are written one after another (45_pack.md R224). -/
theorem writeRecords_eq (recs : List FtRecord) :
    ∀ (m : Memory) (k : Nat),
      writeRecords m k recs = Cells.writeList unwrittenByte m (2 + 5 * k) (recs.flatMap recordBytes) := by
  induction recs with
  | nil => exact fun _ _ => rfl
  | cons r recs ih =>
    intro m k
    have hrecord : memWrite (Memory.write m (2 + 5 * k) r.sym) (3 + 5 * k) 4 r.cnt.toNat
        = Cells.writeList unwrittenByte m (2 + 5 * k) (recordBytes r) := by
      rw [recordBytes_eq, Cells.writeList, show 2 + 5 * k + 1 = 3 + 5 * k by omega]
      rfl
    rw [writeRecords, ih, hrecord, List.flatMap_cons, cells_writeList_append, recordBytes_length, Nat.mul_succ,
      Nat.add_assoc]

/-- The bytes of a container: the header, then the packed bits (20_memory.md R84). -/
def containerBytes (b : Block) : List Byte := headerBytes b.records ++ packBits (packedString b)

theorem containerMemory_eq (b : Block) : containerMemory b = Cells.ofList unwrittenByte (containerBytes b) := by
  rw [containerMemory, writeRecords_eq, containerBytes, Cells.ofList, cells_writeList_append, headerBytes_length,
    headerBytes_eq, cells_writeList_append, bytesOf_length, records_length, Nat.zero_add, Nat.zero_add]
  rfl

theorem packBits_packedString_length (b : Block) :
    (packBits (packedString b)).length = 1 + (dataLength b + padOf (dataLength b)) / 8 := by
  have hmod := add_padOf_mod (dataLength b)
  rw [packBits_length _ (by rw [packedString_length]; omega), packedString_length]
  omega

theorem containerBytes_length (b : Block) : (containerBytes b).length = containerSize b := by
  rw [containerBytes, List.length_append, headerBytes_length, records_length, packBits_packedString_length, headerEnd,
    containerSize, ← Nat.add_assoc]

/-- The output of a PACK that fits is the bytes of the container. -/
theorem storeContainer_output (b : Block) (h : containerSize b < 2 ^ 32) :
    (storeContainer b).output = containerBytes b := by
  rw [Block.output, storeContainer_obuf, storeContainer_outLen, bitVec_toNat_ofNat_of_lt h, containerMemory_eq,
    ← containerBytes_length]
  exact cells_slice_ofList _

/-- A PACK that raises no fault has found the codes valid, or an empty table, and has written the container of the block
it began with. -/
theorem pack_of_no_fault {c : Config} {b : Block} (h : (pack c b).block.err = false) :
    packReady b = true ∧ (pack c b).block.output = containerBytes (invalidateOutput b) := by
  obtain ⟨hready, hpack⟩ | ⟨-, hpack⟩ := pack_cases c b <;> rw [hpack] at h ⊢
  · refine ⟨hready, ?_⟩
    obtain ⟨-, hcheck⟩ | ⟨i, -, -, hcheck⟩ | ⟨-, -, -, hcheck⟩ | ⟨-, -, hfits, hcheck⟩ :=
      packChecked_cases c (invalidateOutput b) <;> rw [hcheck] at h ⊢
    · cases h
    · cases h
    · cases h
    · exact storeContainer_output _ (hfits.trans_lt c.outCap.isLt)
  · cases h

/-! ## The table PARSE reads from a header -/

/-- The input buffer read within the input. -/
theorem ibuf_slice (b : Block) {a n : Nat} (h : a + n ≤ b.inLen.toNat) :
    Cells.slice unwrittenByte b.ibuf a n = (b.input.drop a).take n := by
  refine List.ext_getElem (by simp; omega) fun i h1 h2 => ?_
  simp [Block.input, cells_slice_getElem]

theorem drop_flatMap_recordBytes (recs : List FtRecord) (k : Nat) :
    (recs.flatMap recordBytes).drop (5 * k) = (recs.drop k).flatMap recordBytes := by
  induction recs generalizing k with
  | nil => simp
  | cons r recs ih =>
    cases k with
    | zero => rfl
    | succ k =>
      rw [List.flatMap_cons, Nat.mul_succ, Nat.add_comm, ← List.drop_drop, List.drop_left' (recordBytes_length r), ih,
        List.drop_succ_cons]

section header
variable {b : Block} {recs : List FtRecord} {rest : List Byte} (hinput : b.input = headerBytes recs ++ rest)
include hinput

theorem headerEnd_le_inLen : headerEnd recs.length ≤ b.inLen.toNat := by
  have hlen := congrArg List.length hinput
  rw [input_length, List.length_append, headerBytes_length] at hlen
  omega

/-- The count read back (46_unpack.md R240). -/
theorem headerCount_of_input (hcap : recs.length ≤ 256) : headerCount b = recs.length := by
  have hend := headerEnd_le_inLen hinput
  have hslice : Cells.slice unwrittenByte b.ibuf 0 2 = bytesOf 2 recs.length := by
    rw [ibuf_slice b (by unfold headerEnd at hend; omega), hinput, headerBytes_eq, List.append_assoc]
    exact List.take_left' (bytesOf_length 2 _)
  rw [headerCount, memRead, hslice, bigEndian_bytesOf]
  exact Nat.mod_eq_of_lt (by omega)

/-- A record read back (46_unpack.md R240, R241). -/
theorem headerRecord_of_input {k : Nat} (hk : k < recs.length) : headerRecord b k = recs[k] := by
  have hend := headerEnd_le_inLen hinput
  unfold headerEnd at hend
  have hslice : Cells.slice unwrittenByte b.ibuf (2 + 5 * k) 5 = recordBytes recs[k] := by
    rw [ibuf_slice b (by omega), hinput, headerBytes_eq, List.append_assoc, ← List.drop_drop,
      List.drop_left' (bytesOf_length 2 _), List.drop_append_of_le_length (by simp [List.length_flatMap]; omega),
      drop_flatMap_recordBytes, List.drop_eq_getElem_cons hk, List.flatMap_cons, List.append_assoc]
    exact List.take_left' (recordBytes_length _)
  have hsplit := cells_slice_add (d := unwrittenByte) b.ibuf (2 + 5 * k) 1 4
  rw [hslice, recordBytes_eq] at hsplit
  obtain ⟨hsym, hcnt⟩ : recs[k].sym = Memory.read b.ibuf (2 + 5 * k)
      ∧ bytesOf 4 recs[k].cnt.toNat = Cells.slice unwrittenByte b.ibuf (2 + 5 * k + 1) 4 := List.cons.inj hsplit
  have hcount : memRead b.ibuf (3 + 5 * k) 4 = recs[k].cnt.toNat := by
    rw [memRead, show 3 + 5 * k = 2 + 5 * k + 1 by omega, ← hcnt, bigEndian_bytesOf]
    exact Nat.mod_eq_of_lt recs[k].cnt.isLt
  rw [headerRecord, hcount, BitVec.ofNat_toNat, BitVec.setWidth_eq]
  exact congrArg (FtRecord.mk · _) hsym.symm

theorem headerRecords_of_input (hcap : recs.length ≤ 256) : headerRecords b = recs := by
  refine List.ext_getElem (by rw [headerRecords_length, headerCount_of_input hinput hcap]) fun k h1 h2 => ?_
  simp only [headerRecords, List.getElem_map, List.getElem_range]
  exact headerRecord_of_input hinput h2

/-- An input that begins with the header of a well-formed table is parsed to it (46_unpack.md R240 to R242). -/
theorem parse_of_input (c : Config) (hwf : tableWf recs) :
    parse c b = .ok (storeHeader recs (dropTable b)) := by
  have hcap := tableWf_length recs hwf
  have hend := headerEnd_le_inLen hinput
  have hcount := headerCount_of_input hinput hcap
  have hrecs := headerRecords_of_input hinput hcap
  have htwo : 2 ≤ headerEnd recs.length := Nat.le_add_right 2 _
  obtain ⟨hshort, -⟩ | ⟨-, hmany, -⟩ | ⟨-, -, hshort, -⟩ | ⟨f, k, -, -, -, hcheck, -⟩ | ⟨-, -, -, -, hparse⟩ :=
    parse_cases c b
  · omega
  · omega
  · rw [hcount] at hshort
    omega
  · rw [hrecs, (ftCheck_none recs).2 hwf] at hcheck
    cases hcheck
  · rwa [hrecs] at hparse

end header

/-! ## PARSE, BUILD, GENC -/

theorem runInstrs_cons {i : Instr} {s t : State} (is : List Instr) (h : exec i s = .next t) :
    runInstrs (i :: is) s = runInstrs is t := by
  rw [runInstrs, h]

theorem exec_pack (s : State) (herr : s.blk.err = false) :
    exec .pack s = .next (s.withBlk (pack s.cfg s.blk).block) :=
  congrArg Host.Outcome.next (gated_of_clear s pack herr)

theorem exec_parse {s : State} {r : Result} (herr : s.blk.err = false) (hparse : parse s.cfg s.blk = r) :
    exec .parse s = .next (s.withBlk r.block) :=
  congrArg Host.Outcome.next (gated_of_clear_of_eq herr hparse)

/-- The code table of a record list: what GENC makes of the tree BUILD makes of it. -/
def codeTableOf (recs : List FtRecord) : Cells CtEntry :=
  codesOf (Cells.ofList blankNode (buildTree recs).1) (BitVec.ofNat 9 (buildTree recs).2)

theorem codedBlock_ct (b : Block) : (codedBlock b).ct = codesOf b.node b.root := rfl

theorem codedBlock_builtBlock_ct (b : Block) : (codedBlock (builtBlock b)).ct = codeTableOf b.records := by
  rw [codedBlock_ct, builtBlock, storeTree_node, storeTree_root, codeTableOf]

/-- While CT_VALID is set the code table is that of the records (10_state.md R34). -/
theorem ct_of_flagsFaithful {b : Block} (h : flagsFaithful b) (hvalid : b.ctValid = true) :
    tableWf b.records ∧ b.ct = codeTableOf b.records := by
  obtain ⟨hct, htree, -⟩ := h
  obtain ⟨htreeValid, hcodes⟩ := hct hvalid
  obtain ⟨-, hcheck, hnode, -, hroot⟩ := htree htreeValid
  exact ⟨(ftCheck_none _).1 hcheck, by rw [hcodes, hnode, hroot, codeTableOf]⟩

/-- The block PARSE, BUILD and GENC leave of an input that begins with the header of `recs`. -/
def restoredBlock (recs : List FtRecord) (b : Block) : Block := codedBlock (builtBlock (storeHeader recs (dropTable b)))

theorem restoredBlock_records {recs : List FtRecord} (b : Block) (hcap : recs.length ≤ 256) :
    (restoredBlock recs b).records = recs :=
  storeHeader_records recs (dropTable b) hcap

theorem restoredBlock_ct {recs : List FtRecord} (b : Block) (hcap : recs.length ≤ 256) :
    (restoredBlock recs b).ct = codeTableOf recs := by
  rw [restoredBlock, codedBlock_builtBlock_ct, storeHeader_records _ _ hcap]

theorem runInstrs_parse_build_genc {u : State} {recs : List FtRecord} {rest : List Byte} (herr : u.blk.err = false)
    (hinput : u.blk.input = headerBytes recs ++ rest) (hwf : tableWf recs) (hne : recs ≠ []) :
    runInstrs [.parse, .build, .genc] u = .next (u.withBlk (restoredBlock recs u.blk)) := by
  have hrecords := storeHeader_records recs (dropTable u.blk) (tableWf_length recs hwf)
  have hbuild := exec_build_of_tableWf (s := u.withBlk (storeHeader recs (dropTable u.blk))) herr
    (by rw [withBlk_blk, ne_eq, ← records_eq_nil_iff, hrecords]; exact hne) (by rwa [withBlk_blk, hrecords])
  have hgenc := exec_genc (s := u.withBlk (builtBlock (storeHeader recs (dropTable u.blk)))) herr (genc_of_tree _ rfl)
  rw [runInstrs_cons _ (exec_parse herr (parse_of_input hinput _ hwf)), result_ok_block, runInstrs_cons _ hbuild,
    withBlk_withBlk, withBlk_blk, runInstrs_cons _ hgenc]
  rfl

end Sys2Proof.Machine

open Sys2Proof Sys2Proof.Machine

/-- Settles O54: the container begins with the table in its own order (`pack_of_no_fault`), PARSE reads that table back
(`parse_of_input`), and the code table is a function of the table (`ct_of_flagsFaithful`, `restoredBlock_ct`). -/
theorem codeTableIsRestored : Obligations.CodeTableIsRestored := by
  unfold Obligations.CodeTableIsRestored
  intro s t u herr hflags hne hexec hok huerr hinput
  obtain rfl := Host.Outcome.next.inj ((exec_pack s herr).symm.trans hexec)
  obtain ⟨hready, houtput⟩ := pack_of_no_fault hok
  have hvalid : s.blk.ctValid = true :=
    (by simpa [packReady] using hready : s.blk.ftCount = 0 ∨ s.blk.ctValid = true).resolve_left hne
  obtain ⟨hwf, hct⟩ := ct_of_flagsFaithful hflags hvalid
  have hcap := tableWf_length _ hwf
  have hrun := runInstrs_parse_build_genc huerr (hinput.trans houtput) hwf (mt (records_eq_nil_iff _).1 hne)
  refine ⟨_, hrun, huerr, rfl, restoredBlock_records _ hcap, fun x => ?_⟩
  rw [Block.code, withBlk_blk, Block.code, hct]
  exact congrArg (Cells.read noCode · x.toNat) (restoredBlock_ct u.blk hcap)

end

section
/-! PROOFS. The family 45_pack.md, PACK: its checks in order (R220, R228), the container it writes when they pass (R222 to
R226), and the padding (R231). -/

namespace Sys2Proof.Machine

/-! ## Emptying the output leaves what PACK reads -/

@[simp] theorem invalidateOutput_dataLength (b : Block) : dataLength (invalidateOutput b) = dataLength b := rfl
@[simp] theorem invalidateOutput_containerSize (b : Block) : containerSize (invalidateOutput b) = containerSize b := rfl
@[simp] theorem invalidateOutput_containerBytes (b : Block) :
    containerBytes (invalidateOutput b) = containerBytes b := rfl

/-! ## The checks -/

theorem packReady_iff (b : Block) : packReady b = true ↔ b.ftCount = 0 ∨ b.ctValid = true := by simp [packReady]

theorem firstWithoutCode_eq_none_iff (b : Block) :
    firstWithoutCode b = none ↔ ∀ x ∈ b.input, (b.code x).valid = true := by
  simp [firstWithoutCode]

theorem firstWithoutCode_eq_some {b : Block} {i : Nat} {x : Byte} (hx : b.input[i]? = some x)
    (hno : (b.code x).valid = false) (hbefore : ∀ y ∈ b.input.take i, (b.code y).valid = true) :
    firstWithoutCode b = some i := by
  obtain ⟨hi, rfl⟩ := List.getElem?_eq_some_iff.1 hx
  refine List.findIdx?_eq_some_iff_getElem.2 ⟨hi, by simp [hno], fun j hj => ?_⟩
  simp [hbefore _ (List.mem_take_iff_getElem.2 ⟨j, by omega, rfl⟩)]

theorem containerSize_eq (b : Block) :
    containerSize b = 3 + 5 * b.ftCount.toNat + (dataLength b + padOf (dataLength b)) / 8 := by
  unfold containerSize
  omega

/-- The checks of PACK pass (R220, R228). -/
structure PackPasses (c : Config) (b : Block) : Prop where
  ready : packReady b = true
  total : b.ftTotal.toNat = b.inLen.toNat
  coded : firstWithoutCode b = none
  fits : containerSize b ≤ c.outCap.toNat

/-- The block a PACK leaves whose checks pass (R220). -/
def packedBlock (b : Block) : Block := storeContainer (invalidateOutput b)

section outcomes
variable (c : Config) {b : Block}

theorem pack_of_not_ready (h : packReady b = false) : pack c b = raise .sequence 0x13 b := if_neg (by simp [h])

theorem pack_of_ready (h : packReady b = true) : pack c b = packChecked c (invalidateOutput b) := if_pos h

theorem packChecked_of_mismatch (h : b.ftTotal.toNat ≠ b.inLen.toNat) :
    packChecked c b = raise .ftMismatch b.inLen.toNat b :=
  if_pos h

variable (htotal : b.ftTotal.toNat = b.inLen.toNat)
include htotal

theorem packChecked_of_no_code {i : Nat} (h : firstWithoutCode b = some i) : packChecked c b = raise .noCode i b := by
  rw [packChecked, if_neg (not_not.2 htotal), h]

theorem packChecked_of_overflow (hcoded : firstWithoutCode b = none) (h : c.outCap.toNat < containerSize b) :
    packChecked c b = raise .outOverflow (containerSize b) b := by
  rw [packChecked, if_neg (not_not.2 htotal), hcoded]
  exact if_pos h

theorem packChecked_of_fits (hcoded : firstWithoutCode b = none) (h : containerSize b ≤ c.outCap.toNat) :
    packChecked c b = .ok (storeContainer b) := by
  rw [packChecked, if_neg (not_not.2 htotal), hcoded]
  exact if_neg (not_lt.2 h)

end outcomes

theorem PackPasses.pack_eq {c : Config} {b : Block} (h : PackPasses c b) : pack c b = .ok (packedBlock b) :=
  (pack_of_ready c h.ready).trans (packChecked_of_fits c h.total h.coded h.fits)

/-- A PACK that raises no fault has passed every check. -/
theorem packPasses_of_no_fault {c : Config} {b : Block} (h : (pack c b).block.err = false) : PackPasses c b := by
  obtain ⟨hready, hpack⟩ | ⟨-, hpack⟩ := pack_cases c b <;> rw [hpack] at h
  · obtain ⟨-, hcheck⟩ | ⟨i, -, -, hcheck⟩ | ⟨-, -, -, hcheck⟩ | ⟨htotal, hcoded, hfits, -⟩ :=
      packChecked_cases c (invalidateOutput b)
    · simp [hcheck] at h
    · simp [hcheck] at h
    · simp [hcheck] at h
    · exact ⟨hready, htotal, hcoded, hfits⟩
  · cases h

theorem exec_pack_of_eq {s : State} {r : Result} (herr : s.blk.err = false) (hpack : pack s.cfg s.blk = r) :
    exec .pack s = .next (s.withBlk r.block) :=
  hpack ▸ exec_pack s herr

theorem exec_pack_of_packChecked {s : State} {r : Result} (herr : s.blk.err = false) (hready : packReady s.blk = true)
    (hcheck : packChecked s.cfg (invalidateOutput s.blk) = r) : exec .pack s = .next (s.withBlk r.block) :=
  exec_pack_of_eq herr ((pack_of_ready _ hready).trans hcheck)

/-! ## The container -/

theorem expandBits_packBits_packedString (b : Block) :
    (packBits (packedString b)).flatMap byteBits = packedString b := by
  have hmod := add_padOf_mod (dataLength b)
  exact expandBits_packBits _ (by rw [packedString_length]; omega)

/-- A byte is known by its bits (20_memory.md R85). -/
theorem byteBits_injective : Function.Injective byteBits := by
  intro v w h
  simp only [byteBits, List.cons.injEq, and_true] at h
  obtain ⟨h7, h6, h5, h4, h3, h2, h1, h0⟩ := h
  refine BitVec.eq_of_getLsbD_eq fun i hi => ?_
  interval_cases i <;> assumption

theorem packBits_byteBits_append (v : Byte) (bits : List Bool) :
    packBits (byteBits v ++ bits) = v :: packBits bits :=
  congrArg (· :: packBits bits) (byteBits_injective (byteBits_byteOfBits ..))

/-- The packed bytes begin with the padding count (R225). -/
theorem packBits_packedString (b : Block) :
    packBits (packedString b) = BitVec.ofNat 8 (padOf (dataLength b))
      :: packBits (dataBits b ++ List.replicate (padOf (dataLength b)) false) := by
  rw [packedString, List.append_assoc, packBits_byteBits_append]

/-- The container: the header, the padding count, the codes of the input and the padding. -/
theorem containerBytes_eq_cons (b : Block) :
    containerBytes b = headerBytes b.records ++ BitVec.ofNat 8 (padOf (dataLength b))
      :: packBits (dataBits b ++ List.replicate (padOf (dataLength b)) false) := by
  rw [containerBytes, packBits_packedString]

section container
variable {c : Config} {b : Block} (h : PackPasses c b)
include h

theorem PackPasses.output_eq : (packedBlock b).output = containerBytes b :=
  storeContainer_output _ (h.fits.trans_lt c.outCap.isLt)

theorem PackPasses.outLen_eq :
    (packedBlock b).outLen.toNat = 3 + 5 * b.ftCount.toNat + (dataLength b + padOf (dataLength b)) / 8 := by
  rw [← containerSize_eq]
  exact bitVec_toNat_ofNat_of_lt (h.fits.trans_lt c.outCap.isLt)

/-- DBITS holds the number of data bits: a container that fits has fewer than 2^40. -/
theorem PackPasses.dbits_eq : (packedBlock b).dbits.toNat = dataLength b := by
  have hfits := h.fits.trans_lt c.outCap.isLt
  rw [containerSize_eq] at hfits
  exact bitVec_toNat_ofNat_of_lt (n := dataLength b) (by omega)

end container

theorem packedBlock_pad (b : Block) : (packedBlock b).pad.toNat = padOf (dataLength b) :=
  bitVec_toNat_ofNat_of_lt (padOf_lt _)

/-- The padding-count byte stands behind the header (R225). -/
theorem packedBlock_padByte (b : Block) :
    Memory.read (packedBlock b).obuf (2 + 5 * b.ftCount.toNat) = BitVec.ofNat 8 (padOf (dataLength b)) := by
  have hend : (headerBytes b.records).length = 2 + 5 * b.ftCount.toNat := by
    rw [headerBytes_length, records_length, headerEnd]
  rw [packedBlock, storeContainer_obuf, containerMemory_eq, invalidateOutput_containerBytes, Memory.read,
    cells_read_ofList, containerBytes_eq_cons, ← hend, List.getD_append_right _ _ _ _ le_rfl,
    Nat.sub_self, List.getD_cons_zero]

end Sys2Proof.Machine

open Sys2Proof Sys2Proof.Machine

/-- Settles O35: each fault under the conditions that reach it (`pack_of_not_ready`, `packChecked_of_mismatch`,
`packChecked_of_no_code`, `packChecked_of_overflow`). -/
theorem packFaults : Obligations.PackFaults := by
  unfold Obligations.PackFaults
  intro s herr
  refine ⟨fun hne hinvalid => ?_, fun hready => ⟨[], ?_⟩⟩
  · have hnot : packReady s.blk = false := by simpa [packReady, hinvalid] using hne
    exact exec_pack_of_eq herr (pack_of_not_ready _ hnot)
  have hready := (packReady_iff s.blk).2 hready
  rintro b rfl
  refine ⟨fun hmismatch => ?_, fun htotal i x hx hno hbefore => ?_, fun htotal hvalid len size hlen hsize hover => ?_⟩
  · exact exec_pack_of_packChecked herr hready (packChecked_of_mismatch _ hmismatch)
  · exact exec_pack_of_packChecked herr hready
      (packChecked_of_no_code _ (b := invalidateOutput s.blk) htotal (firstWithoutCode_eq_some hx hno hbefore))
  · obtain rfl : size = containerSize s.blk := by rw [hsize, hlen, containerSize_eq]; rfl
    exact exec_pack_of_packChecked herr hready
      (packChecked_of_overflow _ (b := invalidateOutput s.blk) htotal ((firstWithoutCode_eq_none_iff _).2 hvalid) hover)

/-- Settles O36: when the checks pass PACK stores the container (`PackPasses.pack_eq`), whose packed bytes, expanded, are
the packed string again (`expandBits_packBits_packedString`) and begin with the padding count
(`packBits_packedString`). -/
theorem packWritesTheContainer : Obligations.PackWritesTheContainer := by
  unfold Obligations.PackWritesTheContainer
  intro s bits pad herr hready htotal hvalid hbits hpad hfits
  obtain rfl : bits = dataBits s.blk := hbits
  rw [dataBits_length] at hpad hfits ⊢
  obtain rfl : pad = padOf (dataLength s.blk) := hpad
  have hpass : PackPasses s.cfg s.blk :=
    ⟨(packReady_iff _).2 hready, htotal, (firstWithoutCode_eq_none_iff _).2 hvalid, (containerSize_eq _).trans_le hfits⟩
  exact ⟨_, packBits (packedString s.blk), exec_pack_of_eq herr hpass.pack_eq, rfl, rfl, hpass.output_eq,
    expandBits_packBits_packedString _, packBits_packedString_length _, by rw [packBits_packedString]; rfl,
    Nat.le_of_lt_succ (padOf_lt _), hpass.outLen_eq, packedBlock_pad _, hpass.dbits_eq, rfl⟩

/-- Settles O37: a PACK without a fault has passed its checks (`packPasses_of_no_fault`) and stored the padding count
(`packedBlock_padByte`), and the padding completes a byte (`add_padOf_mod`). -/
theorem paddingIsCorrect : Obligations.PaddingIsCorrect := by
  unfold Obligations.PaddingIsCorrect
  intro s t herr hexec hok
  obtain rfl := Host.Outcome.next.inj ((exec_pack s herr).symm.trans hexec)
  have hpass := packPasses_of_no_fault hok
  rw [hpass.pack_eq, result_ok_block, withBlk_blk]
  have hcount : (packedBlock s.blk).ftCount = s.blk.ftCount := rfl
  have hpad := packedBlock_pad s.blk
  have hlen := hpass.outLen_eq
  have hbits := hpass.dbits_eq
  have hmod := add_padOf_mod (dataLength s.blk)
  rw [hcount, packedBlock_padByte, hpad]
  refine ⟨bitVec_toNat_ofNat_of_lt ((padOf_lt _).trans (by decide)), ?_, ?_⟩ <;> omega

end

section
/-! PROOFS. The family 45_pack.md, DECODE where it succeeds (46_unpack.md R245 to R250, R254): the walk over bits that
spell symbols, and the empty table. -/

namespace Sys2Proof.Machine

/-! ## The walk over spelled bits (46_unpack.md R250) -/

section spelled
variable {node : Cells Node} {root : NodeIndex} {cap : Nat}

/-- Bits that lead to a leaf emit its symbol and return the walk to the root, when the symbol fits. -/
theorem walkBits_of_leadsTo {x : Byte} {rest : List Bool} {start : Nat} {out : List Byte} (hroom : out.length < cap)
    {word : List Bool} :
    ∀ {n : NodeIndex} {j : Nat}, leadsTo node n word = some x →
      walkBits node root cap (word ++ rest) j n start out
        = walkBits node root cap rest (j + word.length) root (j + word.length) (out ++ [x]) := by
  induction word with
  | nil => exact fun h => nomatch h
  | cons bit word ih =>
    intro n j hleads
    rw [leadsTo_cons] at hleads
    rw [List.cons_append, walkBits]
    split at hleads <;> rename_i hleaf
    · obtain ⟨rfl, hsym⟩ : word = [] ∧ (Cells.read blankNode node (child node n bit).toNat).sym = x := by
        simpa using hleads
      rw [if_pos hleaf, if_neg (Nat.ne_of_lt hroom), hsym]
      rfl
    · rw [if_neg hleaf, ih hleads, List.length_cons, Nat.add_right_comm, Nat.add_assoc]

/-- Bits that spell symbols that fit emit them all and leave the walk at the root. -/
theorem walkBits_of_spelled (ws : List (List Bool × Byte)) :
    ∀ {j : Nat} {out : List Byte}, (∀ w ∈ ws, leadsTo node root w.1 = some w.2) → out.length + ws.length ≤ cap →
      ∃ start, walkBits node root cap (ws.flatMap Prod.fst) j root j out
        = .finished root start (out ++ ws.map Prod.snd) := by
  induction ws with
  | nil =>
    intro j out _ _
    exact ⟨j, by simp [walkBits]⟩
  | cons w ws ih =>
    intro j out hleads hroom
    rw [List.forall_mem_cons] at hleads
    obtain ⟨hword, hwords⟩ := hleads
    rw [List.length_cons] at hroom
    obtain ⟨start, hwalk⟩ := ih (j := j + w.1.length) (out := out ++ [w.2]) hwords (by simp; omega)
    refine ⟨start, ?_⟩
    rw [List.flatMap_cons, walkBits_of_leadsTo (by omega) hword, hwalk, List.append_assoc]
    rfl

end spelled

/-! ## DECODE -/

@[simp] theorem invalidateOutput_padByte (b : Block) : padByte (invalidateOutput b) = padByte b := rfl
@[simp] theorem invalidateOutput_dataBitCount (b : Block) : dataBitCount (invalidateOutput b) = dataBitCount b := rfl

theorem decodeReady_iff (b : Block) :
    decodeReady b = true ↔ b.hdrValid = true ∧ (b.ftCount = 0 ∨ b.treeValid = true) := by
  simp [decodeReady]

/-- With the padding count in order DECODE goes on to the bits (R245, R249). -/
theorem decodeContainer_of_starts (c : Config) {b : Block} (h : decodeStarts b) :
    decodeContainer c b = decodeStream c (invalidateOutput b) := by
  obtain ⟨hhdr, htree, hpresent, hrange, hexceeds⟩ := h
  rw [decodeContainer, if_pos ((decodeReady_iff b).2 ⟨hhdr, htree⟩)]
  exact (if_neg (not_lt.2 hpresent)).trans ((if_neg (not_lt.2 hrange)).trans (if_neg (not_lt.2 hexceeds)))

/-- The data bits are as many as DBITS counts (R246, R247). -/
theorem streamBits_length (b : Block) : (streamBits b).length = dataBitCount b := by
  rw [streamBits, List.length_take, expandBits_length, cells_slice_length]
  exact Nat.min_eq_left (Nat.sub_le _ _)

theorem finishDecode_of_length {out : List Byte} {b : Block} (h : out.length = b.ftTotal.toNat) :
    finishDecode out b = .ok (storeOutput out b) :=
  if_neg (not_not.2 h)

theorem ftTotal_of_empty {b : Block} (h : b.ftCount = 0) : b.ftTotal = 0 := by
  rw [Block.ftTotal, (records_eq_nil_iff b).2 h]
  rfl

/-- An empty table with no data bits decodes to nothing (R254). -/
theorem decodeStream_of_empty (c : Config) {b : Block} (hempty : b.ftCount = 0) (hcount : dataBitCount b = 0) :
    decodeStream c b = .ok (storeOutput [] b) := by
  rw [decodeStream, if_pos hempty, if_neg (by omega)]
  exact finishDecode_of_length (by rw [ftTotal_of_empty hempty]; rfl)

/-- Data bits that spell FT_TOTAL symbols that fit decode to them; with an empty table there are none (R250, R254). -/
theorem decodeStream_of_spelled {c : Config} {b : Block} {ws : List (List Bool × Byte)} (hspells : spells b ws)
    (htotal : ws.length = b.ftTotal.toNat) (hfits : ws.length ≤ c.outCap.toNat)
    (hbits : streamBits b = ws.flatMap Prod.fst) : decodeStream c b = .ok (storeOutput (ws.map Prod.snd) b) := by
  by_cases hempty : b.ftCount = 0
  · obtain rfl : ws = [] := by simpa [ftTotal_of_empty hempty] using htotal
    exact decodeStream_of_empty c hempty (by rw [← streamBits_length, hbits]; rfl)
  · obtain ⟨start, hwalk⟩ := walkBits_of_spelled (j := 0) (out := []) ws hspells (by simpa using hfits)
    rw [decodeStream, if_neg hempty, hbits, hwalk]
    exact (if_neg (not_not.2 rfl)).trans (finishDecode_of_length ((List.length_map _).trans htotal))

theorem exec_decode_of_starts {s : State} {r : Result} (herr : s.blk.err = false) (hstarts : decodeStarts s.blk)
    (hstream : decodeStream s.cfg (invalidateOutput s.blk) = r) : exec .decode s = .next (s.withBlk r.block) :=
  congrArg Host.Outcome.next (gated_of_clear_of_eq herr ((decodeContainer_of_starts _ hstarts).trans hstream))

/-- A padding count that takes every bit after it is 0: it is at most 7, and they are whole bytes. -/
theorem padByte_eq_zero {b : Block} (hrange : padByte b ≤ 7) (hall : padByte b = bitsAfterPad b) : padByte b = 0 := by
  unfold bitsAfterPad at hall
  omega

/-! ## The empty container -/

section empty
variable {b : Block} (hin : b.inLen = 0)
include hin

theorem input_of_inLen_zero : b.input = [] := List.length_eq_zero_iff.1 (by rw [input_length, hin]; rfl)

theorem dataLength_of_inLen_zero : dataLength b = 0 := by rw [dataLength, input_of_inLen_zero hin]; rfl

variable (hft : b.ftCount = 0)
include hft

theorem containerSize_of_empty : containerSize b = 3 := by
  rw [containerSize_eq, dataLength_of_inLen_zero hin, hft]
  rfl

/-- PACK's checks pass without a tree when there is nothing to pack (45_pack.md R229). -/
theorem packPasses_of_empty {c : Config} (hroom : 3 ≤ c.outCap.toNat) : PackPasses c b where
  ready := (packReady_iff b).2 (.inl hft)
  total := by rw [ftTotal_of_empty hft, hin]; rfl
  coded := (firstWithoutCode_eq_none_iff b).2 (by simp [input_of_inLen_zero hin])
  fits := (containerSize_of_empty hin hft).trans_le hroom

/-- The container of nothing is three zero bytes (45_pack.md R229). -/
theorem containerBytes_of_empty : containerBytes b = [0, 0, 0] := by
  rw [containerBytes_eq_cons, dataBits, (records_eq_nil_iff b).2 hft, dataLength_of_inLen_zero hin,
    input_of_inLen_zero hin]
  simp [headerBytes, padOf, packBits]

theorem packedBlock_of_empty : packedBlock b
    = { b with obuf := (packedBlock b).obuf, outLen := 3, pad := 0, dbits := 0, outValid := true } := by
  rw [packedBlock, storeContainer, invalidateOutput_containerSize, invalidateOutput_dataLength,
    containerSize_of_empty hin hft, dataLength_of_inLen_zero hin]
  rfl

end empty

end Sys2Proof.Machine

open Sys2Proof Sys2Proof.Machine

/-- Settles O38: nothing passes PACK's checks (`packPasses_of_empty`) and is packed to three zero bytes
(`containerBytes_of_empty`); with an empty table a padding count that leaves no data bits is 0 (`padByte_eq_zero`) and
DECODE gives nothing (`decodeStream_of_empty`). -/
theorem emptyInputAndEmptyTable : Obligations.EmptyInputAndEmptyTable := by
  unfold Obligations.EmptyInputAndEmptyTable
  refine ⟨fun s herr hin hft hroom => ?_, fun s herr hstarts hft hpad => ?_⟩
  · have hpass := packPasses_of_empty hin hft hroom
    exact ⟨_, exec_pack_of_eq herr hpass.pack_eq, rfl, rfl, hpass.output_eq.trans (containerBytes_of_empty hin hft),
      packedBlock_of_empty hin hft⟩
  · have hcount : dataBitCount s.blk = 0 := Nat.sub_eq_zero_of_le hpad.ge
    have hexec := exec_decode_of_starts herr hstarts (decodeStream_of_empty _ (b := invalidateOutput s.blk) hft hcount)
    obtain ⟨-, -, -, hrange, -⟩ := hstarts
    refine ⟨_, hexec, rfl, rfl, rfl, ?_⟩
    rw [result_ok_block, withBlk_blk, storeOutput, invalidateOutput_padByte, invalidateOutput_dataBitCount,
      padByte_eq_zero hrange hpad, hcount]
    rfl

end

section
/-! PROOFS. The family 45_pack.md, DECOMPRESS of a container (46_unpack.md R258, 47_macro.md R261): the bits DECODE finds
behind the header, the tree BUILD makes again of the table, and the symbols the codes lead to. -/

namespace Sys2Proof.Machine

/-! ## The bits behind the header (46_unpack.md R246, R247) -/

/-- From HDR_END on the input is a padding count and bytes whose bits are `bits`, then as many filler bits. -/
structure HoldsStream (b : Block) (pad : Nat) (bits : List Bool) : Prop where
  pad_le : pad ≤ 7
  input : ∃ (packed : List Byte) (filler : List Bool), b.input.drop b.hdrEnd.toNat = BitVec.ofNat 8 pad :: packed
    ∧ packed.flatMap byteBits = bits ++ filler ∧ filler.length = pad

theorem ibuf_slice_to_end {b : Block} {k n : Nat} {tail : List Byte} (htail : b.input.drop k = tail)
    (hlen : tail.length = n) (hpos : 0 < n) :
    b.inLen.toNat = k + n ∧ Cells.slice unwrittenByte b.ibuf k n = tail := by
  have hdrop := congrArg List.length htail
  rw [List.length_drop, input_length] at hdrop
  refine ⟨by omega, ?_⟩
  rw [ibuf_slice b (by omega), htail]
  exact List.take_of_length_le hlen.le

namespace HoldsStream
variable {b : Block} {pad : Nat} {bits : List Bool} (h : HoldsStream b pad bits)
include h

/-- What the buffer holds there: the padding count, and bytes whose bits are the data bits and the filler. -/
theorem exists_packed : ∃ (packed : List Byte) (filler : List Bool),
    b.inLen.toNat = b.hdrEnd.toNat + (1 + packed.length)
    ∧ Memory.read b.ibuf b.hdrEnd.toNat = BitVec.ofNat 8 pad
    ∧ Cells.slice unwrittenByte b.ibuf (b.hdrEnd.toNat + 1) packed.length = packed
    ∧ expandBits packed = bits ++ filler ∧ filler.length = pad := by
  obtain ⟨packed, filler, htail, hbits, hfiller⟩ := h.input
  obtain ⟨hlen, hslice⟩ := ibuf_slice_to_end (n := 1 + packed.length) htail (Nat.add_comm _ _) (by omega)
  rw [cells_slice_add] at hslice
  obtain ⟨hbyte, hbytes⟩ := List.cons.inj hslice
  exact ⟨packed, filler, hlen, hbyte, hbytes, hbits, hfiller⟩

theorem hdrEnd_lt : b.hdrEnd.toNat + 1 ≤ b.inLen.toNat := by
  obtain ⟨packed, -, hlen, -⟩ := h.exists_packed
  omega

theorem padByte_eq : padByte b = pad := by
  obtain ⟨-, -, -, hbyte, -⟩ := h.exists_packed
  rw [padByte, hbyte]
  exact bitVec_toNat_ofNat_of_lt (h.pad_le.trans_lt (by decide))

theorem bitsAfterPad_eq : bitsAfterPad b = bits.length + pad := by
  obtain ⟨packed, filler, hlen, -, -, hbits, hfiller⟩ := h.exists_packed
  have hcount := congrArg List.length hbits
  rw [expandBits_length, List.length_append] at hcount
  unfold bitsAfterPad
  omega

theorem dataBitCount_eq : dataBitCount b = bits.length := by
  rw [dataBitCount, h.bitsAfterPad_eq, h.padByte_eq, Nat.add_sub_cancel]

theorem streamBits_eq : streamBits b = bits := by
  obtain ⟨packed, filler, hlen, -, hbytes, hbits, -⟩ := h.exists_packed
  have hcount : b.inLen.toNat - b.hdrEnd.toNat - 1 = packed.length := by omega
  rw [streamBits, hcount, hbytes, h.dataBitCount_eq, hbits]
  exact List.take_left' rfl

theorem decodeStarts (hhdr : b.hdrValid = true) (htree : b.ftCount = 0 ∨ b.treeValid = true) : decodeStarts b := by
  have hexceeds : padByte b ≤ bitsAfterPad b := by
    rw [h.padByte_eq, h.bitsAfterPad_eq]
    exact Nat.le_add_left _ _
  exact ⟨hhdr, htree, h.hdrEnd_lt, h.padByte_eq.trans_le h.pad_le, hexceeds⟩

end HoldsStream

/-! ## PARSE, BUILD, DECODE (47_macro.md R261) -/

/-- The block after the BUILD of DECOMPRESS, which an empty table skips. -/
def plantedBlock (b : Block) : Block := if b.ftCount = 0 then b else builtBlock b

theorem plantedBlock_of_empty {b : Block} (h : b.ftCount = 0) : plantedBlock b = b := if_pos h

theorem plantedBlock_of_table {b : Block} (h : b.ftCount ≠ 0) : plantedBlock b = builtBlock b := if_neg h

theorem treeOnly_of_tableWf (c : Config) {b : Block} (h : tableWf b.records) : treeOnly c b = .ok (plantedBlock b) := by
  by_cases hempty : b.ftCount = 0
  · rw [plantedBlock_of_empty hempty]
    exact if_pos hempty
  · rw [plantedBlock_of_table hempty]
    exact (if_neg hempty).trans (build_of_tableWf c hempty h)

/-- The block in which DECOMPRESS comes to DECODE, the table `recs` parsed and its tree built. -/
def unpackBlock (recs : List FtRecord) (b : Block) : Block := plantedBlock (storeHeader recs (dropTable b))

/-- The tree leaves what PARSE has stored. -/
theorem unpackBlock_frame (recs : List FtRecord) (b : Block) :
    unpackBlock recs b = { storeHeader recs (dropTable b) with
      node := (unpackBlock recs b).node, nodeCount := (unpackBlock recs b).nodeCount,
      root := (unpackBlock recs b).root, treeValid := (unpackBlock recs b).treeValid } := by
  unfold unpackBlock plantedBlock
  split <;> rfl

theorem unpackBlock_err (recs : List FtRecord) (b : Block) : (unpackBlock recs b).err = b.err :=
  (congrArg Block.err (unpackBlock_frame recs b)).trans rfl

theorem unpackBlock_hdrValid (recs : List FtRecord) (b : Block) : (unpackBlock recs b).hdrValid = true :=
  congrArg Block.hdrValid (unpackBlock_frame recs b)

theorem unpackBlock_ctValid (recs : List FtRecord) (b : Block) : (unpackBlock recs b).ctValid = false :=
  congrArg Block.ctValid (unpackBlock_frame recs b)

theorem unpackBlock_input (recs : List FtRecord) (b : Block) : (unpackBlock recs b).input = b.input :=
  (congrArg Block.input (unpackBlock_frame recs b)).trans rfl

section table
variable {recs : List FtRecord} (hcap : recs.length ≤ 256) (b : Block)
include hcap

theorem unpackBlock_records : (unpackBlock recs b).records = recs :=
  (congrArg Block.records (unpackBlock_frame recs b)).trans (storeHeader_records recs (dropTable b) hcap)

theorem unpackBlock_ftCount : (unpackBlock recs b).ftCount.toNat = recs.length := by
  rw [← records_length, unpackBlock_records hcap b]

theorem unpackBlock_ftTotal : (unpackBlock recs b).ftTotal.toNat = totalOf recs := by
  rw [ftTotal_toNat _ ((unpackBlock_ftCount hcap b).trans_le hcap), unpackBlock_records hcap]

theorem unpackBlock_hdrEnd : (unpackBlock recs b).hdrEnd.toNat = headerEnd recs.length := by
  rw [unpackBlock_frame]
  exact bitVec_toNat_ofNat_of_lt (by unfold headerEnd; omega)

theorem unpackBlock_of_nil (h : recs = []) : unpackBlock recs b = storeHeader recs (dropTable b) := by
  refine plantedBlock_of_empty ?_
  rwa [← records_eq_nil_iff, storeHeader_records _ _ hcap]

theorem unpackBlock_of_ne_nil (h : recs ≠ []) :
    unpackBlock recs b = storeTree (buildTree recs) (storeHeader recs (dropTable b)) := by
  have hrecs := storeHeader_records recs (dropTable b) hcap
  rw [unpackBlock, plantedBlock_of_table (by rwa [ne_eq, ← records_eq_nil_iff, hrecs]), builtBlock, hrecs]

theorem unpackBlock_treeValid_iff : (unpackBlock recs b).treeValid = true ↔ recs ≠ [] := by
  by_cases h : recs = []
  · rw [unpackBlock_of_nil hcap b h]
    exact iff_of_false nofun (not_not.2 h)
  · rw [unpackBlock_of_ne_nil hcap b h]
    exact iff_of_true rfl h

theorem unpackBlock_treeReady : (unpackBlock recs b).ftCount = 0 ∨ (unpackBlock recs b).treeValid = true := by
  rw [unpackBlock_treeValid_iff hcap, ← records_eq_nil_iff, unpackBlock_records hcap]
  exact em _

/-- Words that lead to their symbols in the tree of the table spell them: of an empty table there are none. -/
theorem unpackBlock_spells {ws : List (List Bool × Byte)} (htotal : ws.length = totalOf recs)
    (hleads : ∀ w ∈ ws, leadsTo (Cells.ofList blankNode (buildTree recs).1) (BitVec.ofNat 9 (buildTree recs).2) w.1
      = some w.2) : spells (unpackBlock recs b) ws := by
  by_cases h : recs = []
  · obtain rfl : ws = [] := List.length_eq_zero_iff.1 (htotal.trans (by rw [h]; rfl))
    exact nofun
  · rwa [unpackBlock_of_ne_nil hcap b h]

end table

theorem decompress_of_input (c : Config) {b : Block} {recs : List FtRecord} {rest : List Byte} (hwf : tableWf recs)
    (hinput : b.input = headerBytes recs ++ rest) : decompress c b = decodeContainer c (unpackBlock recs b) := by
  have hrecs := storeHeader_records recs (dropTable b) (tableWf_length recs hwf)
  rw [decompress, parse_of_input hinput c hwf, andThen_ok, treeOnly_of_tableWf c (by rwa [hrecs]), andThen_ok]
  rfl

section container
variable {b : Block} {recs : List FtRecord} {pad : Nat} {packed : List Byte} {bits filler : List Bool}
  (hwf : tableWf recs) (hinput : b.input = headerBytes recs ++ BitVec.ofNat 8 pad :: packed) (hpad : pad ≤ 7)
  (hbits : packed.flatMap byteBits = bits ++ filler) (hfiller : filler.length = pad)
include hwf hinput hpad hbits hfiller

theorem unpackBlock_holdsStream : HoldsStream (unpackBlock recs b) pad bits := by
  refine ⟨hpad, packed, filler, ?_, hbits, hfiller⟩
  rw [unpackBlock_input, unpackBlock_hdrEnd (tableWf_length recs hwf), hinput]
  exact List.drop_left' (headerBytes_length recs)

/-- DECOMPRESS of a container whose data bits are words of the table's tree returns their symbols (R261). -/
theorem decompress_of_container {c : Config} {ws : List (List Bool × Byte)} (hws : bits = ws.flatMap Prod.fst)
    (hleads : ∀ w ∈ ws, leadsTo (Cells.ofList blankNode (buildTree recs).1) (BitVec.ofNat 9 (buildTree recs).2) w.1
      = some w.2) (htotal : ws.length = totalOf recs) (hfits : ws.length ≤ c.outCap.toNat) :
    decompress c b = .ok (storeOutput (ws.map Prod.snd) (invalidateOutput (unpackBlock recs b))) := by
  have hcap := tableWf_length recs hwf
  have hstream := unpackBlock_holdsStream hwf hinput hpad hbits hfiller
  rw [decompress_of_input c hwf hinput, decodeContainer_of_starts c
    (hstream.decodeStarts (unpackBlock_hdrValid recs b) (unpackBlock_treeReady hcap b))]
  exact decodeStream_of_spelled (unpackBlock_spells hcap b htotal hleads)
    (htotal.trans (unpackBlock_ftTotal hcap b).symm) hfits (hstream.streamBits_eq.trans hws)

end container

theorem storeOutput_output {out : List Byte} (b : Block) (h : out.length < 2 ^ 32) :
    (storeOutput out b).output = out := by
  rw [Block.output, storeOutput_obuf, storeOutput_outLen, bitVec_toNat_ofNat_of_lt h]
  exact cells_slice_ofList out

theorem exec_decompress_of_eq {s : State} {r : Result} (herr : s.blk.err = false)
    (hdecompress : decompress s.cfg s.blk = r) : exec .decompress s = .next (s.withBlk r.block) :=
  congrArg Host.Outcome.next (gated_of_clear_of_eq herr hdecompress)

/-! ## The codes of the input are words of the tree -/

/-- The input bytes, each behind its code (45_pack.md R222). -/
def codedInput (b : Block) : List (List Bool × Byte) := b.input.map fun x => (codeBits (b.code x), x)

theorem codedInput_bits (b : Block) : (codedInput b).flatMap Prod.fst = dataBits b := List.flatMap_map ..

theorem codedInput_symbols (b : Block) : (codedInput b).map Prod.snd = b.input := by
  simp [codedInput, Function.comp_def]

theorem codedInput_length (b : Block) : (codedInput b).length = b.inLen.toNat := by simp [codedInput]

theorem expandBits_packBits_padded (b : Block) :
    (packBits (dataBits b ++ List.replicate (padOf (dataLength b)) false)).flatMap byteBits
      = dataBits b ++ List.replicate (padOf (dataLength b)) false := by
  have hmod := add_padOf_mod (dataLength b)
  exact expandBits_packBits _ (by rw [List.length_append, dataBits_length, List.length_replicate]; omega)

/-- A code, followed down the tree that the records make, leads to its symbol (44_genc.md R214). -/
theorem leadsTo_code_of_flagsFaithful {b : Block} (hflags : flagsFaithful b) (hct : b.ctValid = true) {x : Byte}
    (hvalid : (b.code x).valid = true) :
    leadsTo (Cells.ofList blankNode (buildTree b.records).1) (BitVec.ofNat 9 (buildTree b.records).2)
      (codeBits (b.code x)) = some x := by
  obtain ⟨hcodes, htree, -⟩ := hflags
  obtain ⟨htreeValid, hcells⟩ := hcodes hct
  have hfaithful := htree htreeValid
  obtain ⟨ws, hwords⟩ := exists_tableWords_of_treeFaithful hfaithful
  obtain ⟨-, -, hnode, -, hroot⟩ := hfaithful
  have hcode : b.code x = (codedBlock b).code x := by rw [Block.code, hcells]; rfl
  rw [hcode] at hvalid ⊢
  rw [← hnode, ← hroot]
  exact hwords.leadsTo_codeBits hvalid

section packed
variable {c : Config} {b : Block} (hpass : PackPasses c b) (hflags : flagsFaithful b)
include hpass hflags

/-- A table that PACK accepts is well formed. -/
theorem PackPasses.tableWf_records : tableWf b.records := by
  obtain hempty | hct := (packReady_iff b).1 hpass.ready
  · rw [(records_eq_nil_iff b).2 hempty]
    exact ⟨nofun, List.nodup_nil⟩
  · exact (ct_of_flagsFaithful hflags hct).1

theorem PackPasses.codedInput_leadsTo : ∀ w ∈ codedInput b,
    leadsTo (Cells.ofList blankNode (buildTree b.records).1) (BitVec.ofNat 9 (buildTree b.records).2) w.1
      = some w.2 := by
  intro w hw
  obtain ⟨x, hx, rfl⟩ := List.mem_map.1 hw
  obtain hempty | hct := (packReady_iff b).1 hpass.ready
  · have hlen := hpass.total
    rw [ftTotal_of_empty hempty, ← input_length] at hlen
    rw [List.length_eq_zero_iff.1 hlen.symm] at hx
    cases hx
  · exact leadsTo_code_of_flagsFaithful hflags hct ((firstWithoutCode_eq_none_iff b).1 hpass.coded x hx)

theorem PackPasses.codedInput_total : (codedInput b).length = totalOf b.records := by
  have hcap := tableWf_length _ (hpass.tableWf_records hflags)
  rw [records_length] at hcap
  rw [codedInput_length, ← hpass.total, ftTotal_toNat b hcap]

end packed

end Sys2Proof.Machine

open Sys2Proof Sys2Proof.Machine

/-- Settles O51: the container holds the table and, behind it, the codes of the input with their padding
(`containerBytes_eq_cons`); the codes are words of the tree BUILD makes again of that table
(`PackPasses.codedInput_leadsTo`), so the walk returns the input (`decompress_of_container`). -/
theorem decompressRecoversThePackedInput : Obligations.DecompressRecoversThePackedInput := by
  unfold Obligations.DecompressRecoversThePackedInput
  intro s t u herr hflags hexec hok huerr hinput hroom
  obtain rfl := Host.Outcome.next.inj ((exec_pack s herr).symm.trans hexec)
  have hpass := packPasses_of_no_fault hok
  rw [hpass.pack_eq, result_ok_block, withBlk_blk] at hinput ⊢
  rw [hpass.output_eq, containerBytes_eq_cons] at hinput
  have hwf := hpass.tableWf_records hflags
  have hcap := tableWf_length _ hwf
  have hpad : padOf (dataLength s.blk) ≤ 7 := Nat.le_of_lt_succ (padOf_lt _)
  have hbits := expandBits_packBits_padded s.blk
  have hfiller : (List.replicate (padOf (dataLength s.blk)) false).length = padOf (dataLength s.blk) :=
    List.length_replicate
  have hstream := unpackBlock_holdsStream hwf hinput hpad hbits hfiller
  have hrun := decompress_of_container hwf hinput hpad hbits hfiller (c := u.cfg) (codedInput_bits s.blk).symm
    (hpass.codedInput_leadsTo hflags) (hpass.codedInput_total hflags) ((codedInput_length _).trans_le hroom)
  rw [codedInput_symbols] at hrun
  refine ⟨_, exec_decompress_of_eq huerr hrun, ?_⟩
  rw [result_ok_block, withBlk_blk]
  refine ⟨(unpackBlock_err _ _).trans huerr, storeOutput_output _ ?_, rfl, unpackBlock_hdrValid _ _,
    unpackBlock_ctValid _ _, ?_, unpackBlock_records hcap _, ?_, ?_⟩
  · rw [input_length]
    exact s.blk.inLen.isLt
  · rw [ne_eq, ← records_eq_nil_iff]
    exact unpackBlock_treeValid_iff hcap u.blk
  · exact congrArg (BitVec.ofNat 3) hstream.padByte_eq
  · exact congrArg (BitVec.ofNat 40) (hstream.dataBitCount_eq.trans (dataBits_length _))

end

section
/-! PROOFS. The family 46_unpack.md, PARSE: its faults in order (R242) and the table it restores (R240, R241). -/

namespace Sys2Proof.Machine

/-! ## The ways PARSE ends, each under its condition -/

/-- The count field is the first two bytes, most significant first (R240). -/
theorem headerCount_eq (b : Block) :
    headerCount b = 256 * (Memory.read b.ibuf 0).toNat + (Memory.read b.ibuf 1).toNat := by
  simp [headerCount, memRead, bigEndian, Cells.slice, List.range_succ, Memory.read]

section outcomes
variable (c : Config) {b : Block}

theorem parse_of_no_count (h : b.inLen.toNat < 2) : parse c b = raise .hdrShort b.inLen.toNat (dropTable b) := if_pos h

variable (htwo : 2 ≤ b.inLen.toNat)
include htwo

theorem parse_of_many (h : 256 < headerCount b) : parse c b = raise .hdrCount (headerCount b) (dropTable b) :=
  (if_neg (not_lt.2 htwo)).trans (if_pos h)

variable (hcount : headerCount b ≤ 256)
include hcount

theorem parse_of_short (h : b.inLen.toNat < headerEnd (headerCount b)) :
    parse c b = raise .hdrShort b.inLen.toNat (dropTable b) :=
  (if_neg (not_lt.2 htwo)).trans ((if_neg (not_lt.2 hcount)).trans (if_pos h))

theorem parse_of_ftCheck_some {f : FaultKind} {k : Nat} (hend : headerEnd (headerCount b) ≤ b.inLen.toNat)
    (h : ftCheck (headerRecords b) = some (f, k)) : parse c b = raise f k (dropTable b) := by
  refine (if_neg (not_lt.2 htwo)).trans ((if_neg (not_lt.2 hcount)).trans ((if_neg (not_lt.2 hend)).trans ?_))
  rw [show headerRecords (dropTable b) = headerRecords b from rfl, h]

end outcomes

/-- An input that begins with the header of an ill-formed table raises what FTCheck finds in it (R242). -/
theorem parse_of_illFormed_input (c : Config) {b : Block} {recs : List FtRecord} {rest : List Byte} {f : FaultKind}
    {k : Nat} (hinput : b.input = headerBytes recs ++ rest) (hcap : recs.length ≤ 256)
    (h : ftCheck recs = some (f, k)) : parse c b = raise f k (dropTable b) := by
  have hcount := headerCount_of_input hinput hcap
  have hend := headerEnd_le_inLen hinput
  have htwo : 2 ≤ headerEnd recs.length := Nat.le_add_right 2 _
  refine parse_of_ftCheck_some c (htwo.trans hend) (hcount.trans_le hcap) (hcount ▸ hend) ?_
  rwa [headerRecords_of_input hinput hcap]

end Sys2Proof.Machine

open Sys2Proof Sys2Proof.Machine

/-- Settles O39: each fault under the condition that reaches it (`parse_of_no_count`, `parse_of_many`, `parse_of_short`,
`parse_of_illFormed_input`), the table dropped before every check. -/
theorem parseFaults : Obligations.ParseFaults := by
  unfold Obligations.ParseFaults
  rintro s n herr rfl
  rw [← headerCount_eq]
  refine ⟨[], [], [], ?_⟩
  rintro b rfl
  refine ⟨fun hshort => ?_, fun htwo hmany => ?_, fun htwo hcount hshort => ?_,
    fun recs rest hcap hinput k hclean => ⟨fun hzero => ?_, fun hzero hrepeat => ?_⟩⟩
  · exact exec_parse herr (parse_of_no_count _ hshort)
  · exact exec_parse herr (parse_of_many _ htwo hmany)
  · exact exec_parse herr (parse_of_short _ htwo hcount hshort)
  · exact exec_parse herr (parse_of_illFormed_input _ hinput hcap (ftCheck_of_zeroAt hclean hzero))
  · exact exec_parse herr (parse_of_illFormed_input _ hinput hcap (ftCheck_of_repeatAt hclean hzero hrepeat))

/-- Settles O40: PARSE stores the table it finds (`parse_of_input`), which is read back whole (`storeHeader_records`). -/
theorem parseRestoresTheTable : Obligations.ParseRestoresTheTable := by
  unfold Obligations.ParseRestoresTheTable
  intro s recs rest herr hwf hinput
  have hcap := tableWf_length recs hwf
  refine ⟨_, exec_parse herr (parse_of_input hinput _ hwf), rfl, rfl, storeHeader_records _ _ hcap, ?_, ?_, rfl⟩
  · exact bitVec_toNat_ofNat_of_lt (by omega)
  · exact bitVec_toNat_ofNat_of_lt (by unfold headerEnd; omega)

end

section
/-! PROOFS. The family 46_unpack.md, DECODE: the checks on the padding count (R245, R249), the data bits (R246, R247), and
every end of the walk over them (R250 to R255). -/

namespace Sys2Proof.Machine

/-! ## Before the walk -/

section checks
variable (c : Config) {b : Block}

theorem decodeContainer_of_not_ready (h : decodeReady b = false) :
    decodeContainer c b = raise .sequence 0x15 b :=
  if_neg (by simp [h])

theorem decodeContainer_of_ready (h : decodeReady b = true) :
    decodeContainer c b = decodeChecked c (invalidateOutput b) :=
  if_pos h

theorem decodeChecked_of_padMissing (h : b.inLen.toNat < b.hdrEnd.toNat + 1) :
    decodeChecked c b = raise .padMissing b.inLen.toNat b :=
  if_pos h

variable (hpresent : b.hdrEnd.toNat + 1 ≤ b.inLen.toNat)
include hpresent

theorem decodeChecked_of_padRange (h : 7 < padByte b) : decodeChecked c b = raise .padRange (padByte b) b :=
  (if_neg (not_lt.2 hpresent)).trans (if_pos h)

theorem decodeChecked_of_padExceeds (hrange : padByte b ≤ 7) (h : bitsAfterPad b < padByte b) :
    decodeChecked c b = raise .padExceeds (padByte b) b :=
  (if_neg (not_lt.2 hpresent)).trans ((if_neg (not_lt.2 hrange)).trans (if_pos h))

end checks

theorem decodeStream_of_bits_without_table (c : Config) {b : Block} (hempty : b.ftCount = 0) (h : 0 < dataBitCount b) :
    decodeStream c b = raise .truncated 0 b :=
  (if_pos hempty).trans (if_pos h)

theorem exec_decode_of_eq {s : State} {r : Result} (herr : s.blk.err = false)
    (hdecode : decodeContainer s.cfg s.blk = r) : exec .decode s = .next (s.withBlk r.block) :=
  congrArg Host.Outcome.next (gated_of_clear_of_eq herr hdecode)

theorem exec_decode_of_checked {s : State} {r : Result} (herr : s.blk.err = false) (hready : decodeReady s.blk = true)
    (hcheck : decodeChecked s.cfg (invalidateOutput s.blk) = r) : exec .decode s = .next (s.withBlk r.block) :=
  exec_decode_of_eq herr ((decodeContainer_of_ready _ hready).trans hcheck)

/-! ## The data bits -/

/-- With the padding bits behind them, the data bits are all the bits after the padding-count byte (R246, R247). -/
theorem streamBits_append_filler {b : Block} (hpresent : b.hdrEnd.toNat + 1 ≤ b.inLen.toNat)
    (hexceeds : padByte b ≤ bitsAfterPad b) :
    ∃ filler : List Bool, filler.length = padByte b
      ∧ streamBits b ++ filler = expandBits (b.input.drop (b.hdrEnd.toNat + 1)) := by
  have hslice : Cells.slice unwrittenByte b.ibuf (b.hdrEnd.toNat + 1) (b.inLen.toNat - b.hdrEnd.toNat - 1)
      = b.input.drop (b.hdrEnd.toNat + 1) := by
    rw [ibuf_slice b (by omega)]
    exact List.take_of_length_le (by rw [List.length_drop, input_length]; omega)
  refine ⟨(expandBits (b.input.drop (b.hdrEnd.toNat + 1))).drop (dataBitCount b), ?_, ?_⟩
  · rw [List.length_drop, expandBits_length, List.length_drop, input_length, dataBitCount]
    unfold bitsAfterPad at *
    omega
  · rw [streamBits, hslice, List.take_append_drop]

/-- DBITS holds the number of data bits. -/
theorem dataBitCount_lt (b : Block) : dataBitCount b < 2 ^ 40 := by
  have hlen := b.inLen.isLt
  unfold dataBitCount bitsAfterPad
  omega

/-! ## The ends of the walk -/

section walk
variable {node : Cells Node} {root : NodeIndex} {cap : Nat}

/-- Bits that spell symbols that fit emit them and leave the walk at the root, the bits that follow still to come. -/
theorem walkBits_of_spelled_append (rest : List Bool) (ws : List (List Bool × Byte)) :
    ∀ {j : Nat} {out : List Byte}, (∀ w ∈ ws, leadsTo node root w.1 = some w.2) → out.length + ws.length ≤ cap →
      walkBits node root cap (ws.flatMap Prod.fst ++ rest) j root j out
        = walkBits node root cap rest (j + (ws.flatMap Prod.fst).length) root (j + (ws.flatMap Prod.fst).length)
            (out ++ ws.map Prod.snd) := by
  induction ws with
  | nil => simp
  | cons w ws ih =>
    intro j out hleads hroom
    rw [List.forall_mem_cons] at hleads
    obtain ⟨hword, hwords⟩ := hleads
    rw [List.length_cons] at hroom
    rw [List.flatMap_cons, List.append_assoc, walkBits_of_leadsTo (by omega) hword, ih hwords (by simp; omega),
      List.length_append, Nat.add_assoc, List.append_assoc]
    rfl

/-- A symbol that the bits lead to does not fit when the output is full (R253). -/
theorem walkBits_of_leadsTo_full {x : Byte} {rest : List Bool} {start : Nat} {out : List Byte} (hfull : out.length = cap)
    {word : List Bool} :
    ∀ {n : NodeIndex} {j : Nat}, leadsTo node n word = some x →
      walkBits node root cap (word ++ rest) j n start out = .full cap := by
  induction word with
  | nil => exact fun h => nomatch h
  | cons bit word ih =>
    intro n j hleads
    rw [leadsTo_cons] at hleads
    rw [List.cons_append, walkBits]
    split at hleads <;> rename_i hleaf
    · rw [if_pos hleaf, if_pos hfull, hfull]
    · rw [if_neg hleaf, ih hleads]

/-- Bits that spell more symbols than fit end the walk at the first that does not (R253). -/
theorem walkBits_of_spelled_full (rest : List Bool) {ws : List (List Bool × Byte)}
    (hleads : ∀ w ∈ ws, leadsTo node root w.1 = some w.2) (hover : cap < ws.length) (j : Nat) :
    walkBits node root cap (ws.flatMap Prod.fst ++ rest) j root j [] = .full cap := by
  have htake : (ws.take cap).length = cap := List.length_take_of_le hover.le
  conv_lhs => rw [← List.take_append_drop cap ws, List.drop_eq_getElem_cons hover]
  rw [List.flatMap_append, List.append_assoc, List.flatMap_cons, List.append_assoc,
    walkBits_of_spelled_append _ _ (fun w hw => hleads w (List.mem_of_mem_take hw)) (by simp)]
  exact walkBits_of_leadsTo_full (by simpa using hover.le) (hleads _ (List.getElem_mem hover))

theorem meetsNoLeaf_cons (node : Cells Node) (n : NodeIndex) (bit : Bool) (rest : List Bool) :
    meetsNoLeaf node n (bit :: rest)
      = (!(Cells.read blankNode node (child node n bit).toNat).leaf && meetsNoLeaf node (child node n bit) rest) := rfl

/-- Bits that meet no leaf emit nothing; the walk ends where they lead (R255). -/
theorem walkBits_of_meetsNoLeaf {start : Nat} {out : List Byte} (bits : List Bool) :
    ∀ {n : NodeIndex} {j : Nat}, meetsNoLeaf node n bits = true →
      walkBits node root cap bits j n start out = .finished (bits.foldl (child node) n) start out := by
  induction bits with
  | nil => exact fun _ => rfl
  | cons bit bits ih =>
    intro n j h
    simp only [meetsNoLeaf_cons, Bool.and_eq_true, Bool.not_eq_true'] at h
    obtain ⟨hinternal, hrest⟩ := h
    rw [walkBits, if_neg (by simp [hinternal]), ih hrest, List.foldl_cons]

end walk

/-! ## Down the arena the indices fall (10_state.md R50) -/

section arena
variable {b : Block} (harena : arenaInv b)
include harena

theorem child_lt_of_arenaInv {n : NodeIndex} (hle : n.toNat ≤ b.root.toNat) (hinternal : (b.nodeAt n).leaf = false)
    (bit : Bool) : (child b.node n bit).toNat < n.toNat := by
  obtain ⟨hpos, hleaves, hmerged, hsingle, -⟩ := harena
  have hge : b.ftCount.toNat ≤ n.toNat := by
    by_contra hlt
    obtain ⟨hleaf, -⟩ := hleaves n.toNat (not_le.1 hlt)
    exact absurd (hleaf.symm.trans hinternal) (by decide)
  suffices hboth : (b.nodeNum n.toNat).left.toNat < n.toNat ∧ (b.nodeNum n.toNat).right.toNat < n.toNat by
    obtain ⟨hleft, hright⟩ := hboth
    cases bit
    · exact hleft
    · exact hright
  obtain htwo | hone : 2 ≤ b.ftCount.toNat ∨ b.ftCount.toNat = 1 := by omega
  · obtain ⟨-, hroot, hinternals, -⟩ := hmerged htwo
    obtain ⟨-, -, hleft, hright, -⟩ := hinternals n.toNat (by omega) hge
    exact ⟨hleft, hright⟩
  · obtain ⟨-, hroot, -, -, hleft, hright, -⟩ := hsingle hone
    have hn : n.toNat = 1 := le_antisymm (hle.trans_eq (congrArg BitVec.toNat hroot)) (hone ▸ hge)
    rw [hn, hleft, hright]
    decide

theorem foldl_child_le_of_arenaInv (bits : List Bool) :
    ∀ {n : NodeIndex}, n.toNat ≤ b.root.toNat → (b.nodeAt n).leaf = false → meetsNoLeaf b.node n bits = true →
      (bits.foldl (child b.node) n).toNat ≤ n.toNat := by
  induction bits with
  | nil => exact fun _ _ _ => le_rfl
  | cons bit bits ih =>
    intro n hle hinternal h
    have hlt := child_lt_of_arenaInv harena hle hinternal bit
    simp only [meetsNoLeaf_cons, Bool.and_eq_true, Bool.not_eq_true'] at h
    obtain ⟨hchild, hrest⟩ := h
    exact (ih (hlt.le.trans hle) hchild hrest).trans hlt.le

/-- Bits from the root that meet no leaf end below it: the walk can tell that a code is incomplete (R255). -/
theorem foldl_child_ne_root {bits : List Bool} (hne : bits ≠ []) (h : meetsNoLeaf b.node b.root bits = true) :
    bits.foldl (child b.node) b.root ≠ b.root := by
  obtain ⟨bit, rest, rfl⟩ := List.exists_cons_of_ne_nil hne
  have hroot : (b.nodeAt b.root).leaf = false := by
    obtain ⟨-, -, -, -, -, hroot⟩ := harena
    exact hroot
  have hlt := child_lt_of_arenaInv harena le_rfl hroot bit
  simp only [meetsNoLeaf_cons, Bool.and_eq_true, Bool.not_eq_true'] at h
  obtain ⟨hchild, hrest⟩ := h
  have hle := foldl_child_le_of_arenaInv harena rest hlt.le hchild hrest
  exact fun heq => absurd (congrArg BitVec.toNat heq) (hle.trans_lt hlt).ne

/-- With one record either bit leads from the root to the one leaf (R251). -/
theorem leadsTo_bit_of_single (hone : b.ftCount.toNat = 1) (bit : Bool) :
    leadsTo b.node b.root [bit] = some (b.record 0).sym := by
  obtain ⟨-, hleaves, -, hsingle, -⟩ := harena
  obtain ⟨-, hroot, -, -, hleft, hright, -⟩ := hsingle hone
  obtain ⟨hleaf, hsym, -⟩ := hleaves 0 (by omega)
  have hchild : child b.node b.root bit = 0 := by
    rw [hroot]
    cases bit
    · exact hleft
    · exact hright
  rw [leadsTo_cons, hchild]
  exact (if_pos hleaf).trans (congrArg some hsym)

end arena

/-- The words of a one-symbol tree that a bit string is made of, one for each bit (R251). -/
def bitWords (x : Byte) (bits : List Bool) : List (List Bool × Byte) := bits.map fun bit => ([bit], x)

theorem bitWords_length (x : Byte) (bits : List Bool) : (bitWords x bits).length = bits.length := List.length_map _

theorem bitWords_bits (x : Byte) (bits : List Bool) : (bitWords x bits).flatMap Prod.fst = bits := by
  simp [bitWords, List.flatMap_map]

theorem bitWords_symbols (x : Byte) (bits : List Bool) :
    (bitWords x bits).map Prod.snd = List.replicate bits.length x := by
  simp [bitWords, Function.comp_def]

/-! ## DECODE with a tree, by the end of the walk -/

section stream
variable {c : Config} {b : Block} (hne : b.ftCount ≠ 0)
include hne

theorem decodeStream_of_full {out : Nat}
    (h : walkBits b.node b.root c.outCap.toNat (streamBits b) 0 b.root 0 [] = .full out) :
    decodeStream c b = raise .outOverflow out b := by
  rw [decodeStream, if_neg hne, h]

theorem decodeStream_of_midCode {n : NodeIndex} {start : Nat} {out : List Byte}
    (h : walkBits b.node b.root c.outCap.toNat (streamBits b) 0 b.root 0 [] = .finished n start out) (hn : n ≠ b.root) :
    decodeStream c b = raise .truncated start b := by
  rw [decodeStream, if_neg hne, h]
  exact if_pos hn

theorem decodeStream_of_otherLength {start : Nat} {out : List Byte}
    (h : walkBits b.node b.root c.outCap.toNat (streamBits b) 0 b.root 0 [] = .finished b.root start out)
    (hlen : out.length ≠ b.ftTotal.toNat) : decodeStream c b = raise .lenMismatch out.length b := by
  rw [decodeStream, if_neg hne, h]
  exact (if_neg (not_not.2 rfl)).trans (if_pos hlen)

end stream

end Sys2Proof.Machine

open Sys2Proof Sys2Proof.Machine

/-- Settles O41: each fault under the condition that reaches it (`decodeContainer_of_not_ready`,
`decodeChecked_of_padMissing`, `decodeChecked_of_padRange`, `decodeChecked_of_padExceeds`,
`decodeStream_of_bits_without_table`). -/
theorem decodeHeaderFaults : Obligations.DecodeHeaderFaults := by
  unfold Obligations.DecodeHeaderFaults
  rintro s pad nbits herr rfl rfl
  refine ⟨fun hnot => ?_, fun hhdr htree => ⟨[], ?_⟩⟩
  · have hready : decodeReady s.blk = false := by
      rw [← Bool.not_eq_true, decodeReady_iff]
      rintro ⟨hhdr, htree⟩
      obtain hno | ⟨hne, hno⟩ := hnot
      · exact Bool.eq_false_iff.1 hno hhdr
      · exact htree.elim hne (Bool.eq_false_iff.1 hno)
    exact exec_decode_of_eq herr (decodeContainer_of_not_ready _ hready)
  have hready := (decodeReady_iff s.blk).2 ⟨hhdr, htree⟩
  rintro b rfl
  refine ⟨fun hmissing => ?_, fun hpresent hrange => ?_, fun hpresent hrange hexceeds => ?_,
    fun hpresent hrange hbits hempty => ?_⟩
  · exact exec_decode_of_checked herr hready (decodeChecked_of_padMissing _ hmissing)
  · exact exec_decode_of_checked herr hready (decodeChecked_of_padRange _ (b := invalidateOutput s.blk) hpresent hrange)
  · exact exec_decode_of_checked herr hready
      (decodeChecked_of_padExceeds _ (b := invalidateOutput s.blk) hpresent hrange hexceeds)
  · exact exec_decode_of_starts herr ⟨hhdr, htree, hpresent, hrange, hbits.le⟩
      (decodeStream_of_bits_without_table _ (b := invalidateOutput s.blk) hempty (Nat.sub_pos_of_lt hbits))

/-- Settles O42: bits that spell the symbols decode to them (`decodeStream_of_spelled`), and OUT_LEN, PAD and DBITS hold
what is stored in them. -/
theorem decodeEmitsTheSymbols : Obligations.DecodeEmitsTheSymbols := by
  unfold Obligations.DecodeEmitsTheSymbols
  intro s ws herr hstarts _ hspells htotal hfits hbits
  have hexec := exec_decode_of_starts herr hstarts
    (decodeStream_of_spelled (b := invalidateOutput s.blk) hspells htotal hfits hbits)
  obtain ⟨-, -, -, hrange, -⟩ := hstarts
  refine ⟨_, hexec, rfl, rfl, storeOutput_output _ ?_, ?_, ?_, rfl⟩
  · rw [List.length_map]
    exact hfits.trans_lt s.cfg.outCap.isLt
  · exact bitVec_toNat_ofNat_of_lt (Nat.lt_succ_of_le hrange)
  · rw [← hbits, streamBits_length]
    exact bitVec_toNat_ofNat_of_lt (dataBitCount_lt s.blk)

/-- Settles O43 (`streamBits_append_filler`). -/
theorem dataBitsStripThePadding : Obligations.DataBitsStripThePadding := by
  unfold Obligations.DataBitsStripThePadding
  rintro b ⟨-, -, hpresent, -, hexceeds⟩
  exact streamBits_append_filler hpresent hexceeds

/-- Settles O44: the walk over the spelled symbols stops at the first that does not fit (`walkBits_of_spelled_full`), or
comes back to the root behind them (`walkBits_of_spelled_append`); bits that then meet no leaf leave it below the root
(`foldl_child_ne_root`). -/
theorem decodeStreamFaults : Obligations.DecodeStreamFaults := by
  unfold Obligations.DecodeStreamFaults
  intro s ws tail herr hstarts hne harena hspells hbits
  refine ⟨[], ?_⟩
  rintro b rfl
  have hwalk : ws.length ≤ s.cfg.outCap.toNat →
      walkBits s.blk.node s.blk.root s.cfg.outCap.toNat (streamBits s.blk) 0 s.blk.root 0 []
        = walkBits s.blk.node s.blk.root s.cfg.outCap.toNat tail (ws.flatMap Prod.fst).length s.blk.root
            (ws.flatMap Prod.fst).length (ws.map Prod.snd) := fun hfits => by
    rw [hbits, walkBits_of_spelled_append tail ws hspells (by simpa using hfits), Nat.zero_add, List.nil_append]
  refine ⟨fun hover => ?_, fun hfits hne' hnoLeaf => ?_, fun hfits hnil hlen => ?_⟩
  · have hfull := walkBits_of_spelled_full tail hspells hover 0
    rw [← hbits] at hfull
    exact exec_decode_of_starts herr hstarts (decodeStream_of_full (b := invalidateOutput s.blk) hne hfull)
  · have hend := (hwalk hfits).trans (walkBits_of_meetsNoLeaf tail hnoLeaf)
    exact exec_decode_of_starts herr hstarts (decodeStream_of_midCode (b := invalidateOutput s.blk) hne hend
      (foldl_child_ne_root harena hne' hnoLeaf))
  · subst hnil
    rw [← List.length_map (f := Prod.snd)] at hlen ⊢
    exact exec_decode_of_starts herr hstarts
      (decodeStream_of_otherLength (b := invalidateOutput s.blk) hne (hwalk hfits) hlen)

/-- Settles O45: each data bit is a word of the one symbol (`leadsTo_bit_of_single`), so the data bits spell it as often
as there are bits (`decodeStream_of_spelled`). -/
theorem singleSymbolDecodesAnyBits : Obligations.SingleSymbolDecodesAnyBits := by
  unfold Obligations.SingleSymbolDecodesAnyBits
  intro s herr hstarts hone harena htotal hfits
  have hspells : spells s.blk (bitWords (s.blk.record 0).sym (streamBits s.blk)) := by
    intro w hw
    obtain ⟨bit, -, rfl⟩ := List.mem_map.1 hw
    exact leadsTo_bit_of_single harena hone bit
  have hlen := bitWords_length (s.blk.record 0).sym (streamBits s.blk)
  have hexec := exec_decode_of_starts herr hstarts (decodeStream_of_spelled (b := invalidateOutput s.blk) hspells
    (hlen.trans htotal) (hlen.trans_le hfits) (bitWords_bits _ _).symm)
  rw [bitWords_symbols] at hexec
  refine ⟨_, hexec, herr, rfl, storeOutput_output _ ?_⟩
  rw [List.length_replicate]
  exact hfits.trans_lt s.cfg.outCap.isLt

end

section
/-! PROOFS. The family 46_unpack.md, compress and decompress (R258): the block in which COMPRESS (47_macro.md R260) comes
to PACK, and a host program that loads bytes and then runs a command. -/

namespace Sys2Proof.Machine

/-! ## COMPRESS up to PACK (47_macro.md R260) -/

/-- The block after the BUILD and GENC of COMPRESS, which an empty table skips. -/
def treedBlock (b : Block) : Block := if b.ftCount = 0 then b else codedBlock (builtBlock b)

theorem treedBlock_of_empty {b : Block} (h : b.ftCount = 0) : treedBlock b = b := if_pos h

theorem treedBlock_of_table {b : Block} (h : b.ftCount ≠ 0) : treedBlock b = codedBlock (builtBlock b) := if_neg h

/-- BUILD and GENC leave all but the tree and the codes. -/
theorem treedBlock_frame (b : Block) : treedBlock b = { b with
    node := (treedBlock b).node, nodeCount := (treedBlock b).nodeCount, root := (treedBlock b).root,
    treeValid := (treedBlock b).treeValid, ct := (treedBlock b).ct, ctValid := (treedBlock b).ctValid } := by
  unfold treedBlock
  split <;> rfl

theorem treeAndCodes_of_tableWf (c : Config) {b : Block} (h : tableWf b.records) :
    treeAndCodes c b = .ok (treedBlock b) := by
  by_cases hempty : b.ftCount = 0
  · rw [treedBlock_of_empty hempty]
    exact if_pos hempty
  · rw [treedBlock_of_table hempty, treeAndCodes, if_neg hempty, build_of_tableWf c hempty h, andThen_ok]
    exact genc_of_tree c rfl

/-- A well-formed table's tree and codes are what the flags then say (10_state.md R34). -/
theorem treedBlock_flagsFaithful (c : Config) {b : Block} (hwf : tableWf b.records) (hflags : flagsFaithful b) :
    flagsFaithful (treedBlock b) := by
  have hkeeps := stepInvariant_flagsFaithful c
  by_cases hempty : b.ftCount = 0
  · rwa [treedBlock_of_empty hempty]
  · rw [treedBlock_of_table hempty]
    exact hkeeps.storeCodes _ rfl (hkeeps.storeTree b hempty ((ftCheck_none _).2 hwf) hflags)

/-- The symbols of a well-formed table have codes once its tree is walked (44_genc.md R214). -/
theorem treedBlock_code_valid_iff {b : Block} (hne : b.ftCount ≠ 0) (hwf : tableWf b.records) (x : Byte) :
    ((treedBlock b).code x).valid = true ↔ x ∈ b.records.map FtRecord.sym := by
  have hfaithful : treeFaithful (builtBlock b) := ⟨hne, (ftCheck_none _).2 hwf, rfl, rfl, rfl⟩
  obtain ⟨ws, hwords⟩ := exists_tableWords_of_treeFaithful hfaithful
  rw [treedBlock_of_table hne]
  exact hwords.code_valid_iff x

/-- The block in which COMPRESS comes to PACK: the input counted, the tree built, the codes recorded. -/
def readyBlock (b : Block) : Block := treedBlock (countedBlock b)

theorem countedBlock_tableWf (b : Block) : tableWf (countedBlock b).records := by
  rw [countedBlock_records]
  exact tableWf_countRecords b.input

theorem compress_eq (c : Config) (b : Block) : compress c b = pack c (readyBlock b) := by
  rw [compress, freq, andThen_ok, ← countedBlock, treeAndCodes_of_tableWf c (countedBlock_tableWf b), andThen_ok,
    readyBlock]

theorem readyBlock_err (b : Block) : (readyBlock b).err = b.err :=
  (congrArg Block.err (treedBlock_frame _)).trans rfl

theorem readyBlock_input (b : Block) : (readyBlock b).input = b.input :=
  (congrArg Block.input (treedBlock_frame _)).trans rfl

theorem readyBlock_inLen (b : Block) : (readyBlock b).inLen = b.inLen :=
  (congrArg Block.inLen (treedBlock_frame _)).trans rfl

theorem readyBlock_ftTotal (b : Block) : (readyBlock b).ftTotal.toNat = (readyBlock b).inLen.toNat := by
  rw [readyBlock_inLen]
  exact (congrArg (fun b' : Block => b'.ftTotal.toNat) (treedBlock_frame _)).trans (countedBlock_ftTotal b)

theorem readyBlock_flagsFaithful (c : Config) (b : Block) : flagsFaithful (readyBlock b) :=
  treedBlock_flagsFaithful c (countedBlock_tableWf b) ⟨nofun, nofun, nofun⟩

theorem packReady_readyBlock (b : Block) : packReady (readyBlock b) = true := by
  rw [packReady_iff, readyBlock]
  by_cases hempty : (countedBlock b).ftCount = 0
  · rw [treedBlock_of_empty hempty]
    exact .inl hempty
  · rw [treedBlock_of_table hempty]
    exact .inr rfl

/-- Every input byte was counted, so it has a code. -/
theorem firstWithoutCode_readyBlock (b : Block) : firstWithoutCode (readyBlock b) = none := by
  rw [firstWithoutCode_eq_none_iff, readyBlock_input]
  intro x hx
  have hne : (countedBlock b).ftCount ≠ 0 := fun h0 => by
    rw [input_of_inLen_zero ((countedBlock_ftCount_eq_zero_iff b).1 h0)] at hx
    cases hx
  rw [readyBlock, treedBlock_code_valid_iff hne (countedBlock_tableWf b), countedBlock_records]
  exact (mem_countRecords_symbols (input_length_lt b) x).2 hx

/-- The PACK of COMPRESS passes its checks when the container fits (R260). -/
theorem packPasses_readyBlock {c : Config} {b : Block} (hfits : containerSize (readyBlock b) ≤ c.outCap.toNat) :
    PackPasses c (readyBlock b) :=
  ⟨packReady_readyBlock b, readyBlock_ftTotal b, firstWithoutCode_readyBlock b, hfits⟩

/-- However PACK ends, it leaves what the size of the container is computed from. -/
theorem pack_containerSize (c : Config) (b : Block) : containerSize (pack c b).block = containerSize b := by
  obtain ⟨-, hpack⟩ | ⟨-, hpack⟩ := pack_cases c b <;> rw [hpack]
  · obtain ⟨-, hcheck⟩ | ⟨i, -, -, hcheck⟩ | ⟨-, -, -, hcheck⟩ | ⟨-, -, -, hcheck⟩ :=
      packChecked_cases c (invalidateOutput b) <;> rw [hcheck] <;> rfl
  · rfl

theorem exec_compress {s : State} (herr : s.blk.err = false) :
    exec .compress s = .next (s.withBlk (pack s.cfg (readyBlock s.blk)).block) :=
  congrArg Host.Outcome.next (gated_of_clear_of_eq herr (compress_eq s.cfg s.blk))

/-! ## Loading, then a command -/

theorem runInstrs_append {is : List Instr} (js : List Instr) {t : State} :
    ∀ {s : State}, runInstrs is s = .next t → runInstrs (is ++ js) s = runInstrs js t := by
  induction is with
  | nil =>
    intro s h
    obtain rfl : s = t := Host.Outcome.next.inj h
    rfl
  | cons i is ih =>
    intro s h
    rw [runInstrs] at h
    split at h <;> rename_i hexec
    · rw [List.cons_append, runInstrs_cons _ hexec, ih h]
    · cases h
    · cases h

/-- Bytes that fit, loaded into an empty buffer, are the input of the block on which the command behind them runs
(00_scope.md R17). -/
theorem runInstrs_load_then (l : List Byte) {s : State} (herr : s.blk.err = false) (hin : s.blk.inLen = 0)
    (hbuf : s.blk.ibuf = []) (hfits : l.length ≤ s.cfg.inCap.toNat) :
    ∃ b, b.input = l ∧ b.err = false ∧ ∀ {i : Instr} {t : State}, exec i (s.withBlk b) = .next t →
      runInstrs (l.map Instr.wrInPush ++ [i]) s = .next t := by
  obtain ⟨b, hrun, hinput, hframe⟩ := runInstrs_wrInPush l s herr (hbuf ▸ rfl) (by simpa [hin] using hfits)
  rw [input_of_inLen_zero hin, List.nil_append] at hinput
  refine ⟨b, hinput, (congrArg Block.err hframe).trans herr, fun hexec => ?_⟩
  rw [runInstrs_append _ hrun, runInstrs_cons _ hexec]
  rfl

/-- The block ICLR leaves (41_control.md R172). -/
def clearedInput (b : Block) : Block := invalidateHeader { b with inLen := 0, ibuf := [] }

theorem clearedInput_err (b : Block) : (clearedInput b).err = b.err := rfl

theorem exec_iclr {s : State} (herr : s.blk.err = false) : exec .iclr s = .next (s.withBlk (clearedInput s.blk)) :=
  congrArg Host.Outcome.next (gated_of_clear s iclr herr)

theorem packedBlock_err (b : Block) : (packedBlock b).err = b.err := rfl

/-- What PACK has written, moved to the emptied input, decompresses to the bytes that were packed (R258). -/
theorem runInstrs_move_decompress {s : State} (herr : s.blk.err = false) (hflags : flagsFaithful s.blk)
    (hpass : PackPasses s.cfg s.blk) (hin : containerSize s.blk ≤ s.cfg.inCap.toNat)
    (hout : s.blk.inLen.toNat ≤ s.cfg.outCap.toNat) :
    ∃ u, runInstrs (.iclr :: (packedBlock s.blk).output.map Instr.wrInPush ++ [.decompress])
        (s.withBlk (packedBlock s.blk)) = .next u ∧ u.blk.err = false ∧ u.blk.output = s.blk.input := by
  have herr' : (s.withBlk (packedBlock s.blk)).blk.err = false := (packedBlock_err _).trans herr
  have hlen : (packedBlock s.blk).output.length ≤ s.cfg.inCap.toNat := by
    rwa [hpass.output_eq, containerBytes_length]
  obtain ⟨b, hinput, hberr, hthen⟩ := runInstrs_load_then (packedBlock s.blk).output
    (s := s.withBlk (clearedInput (packedBlock s.blk))) ((clearedInput_err _).trans herr') rfl rfl hlen
  obtain ⟨u, hexec, huerr, houtput, -⟩ := decompressRecoversThePackedInput s _ (s.withBlk b) herr hflags
    (exec_pack_of_eq herr hpass.pack_eq) herr' hberr hinput hout
  refine ⟨u, ?_, huerr, houtput⟩
  rw [List.cons_append, runInstrs_cons _ (exec_iclr herr')]
  exact hthen hexec

end Sys2Proof.Machine

open Sys2Proof Sys2Proof.Machine

/-- Settles O52: the loaded input is counted, treed and coded (`readyBlock`), PACK then passes its checks
(`packPasses_readyBlock`), and any block that holds the container gives the input back
(`decompressRecoversThePackedInput`). -/
theorem roundTrip : Obligations.RoundTrip := by
  unfold Obligations.RoundTrip
  intro c x _ hin hout
  obtain ⟨b, hinput, hberr, hthen⟩ := runInstrs_load_then x (s := State.resetWith c) rfl rfl rfl hin
  have herr : (readyBlock b).err = false := (readyBlock_err b).trans hberr
  refine ⟨_, hthen (exec_compress hberr), fun hsizeOut hsizeIn => ?_⟩
  rw [withBlk_blk, pack_containerSize] at hsizeOut hsizeIn
  have hpass : PackPasses c (readyBlock b) := packPasses_readyBlock hsizeOut
  have hroom : (readyBlock b).inLen.toNat ≤ c.outCap.toNat := by
    rwa [readyBlock_inLen, ← input_length, hinput]
  obtain ⟨u, hrun, huerr, houtput⟩ := runInstrs_move_decompress (s := (State.resetWith c).withBlk (readyBlock b)) herr
    (readyBlock_flagsFaithful c b) hpass hsizeIn hroom
  rw [withBlk_blk, pack_containerSize, withBlk_cfg, resetWith_cfg, withBlk_blk, hpass.pack_eq, result_ok_block,
    withBlk_withBlk]
  refine ⟨(packedBlock_err _).trans herr, ?_, u, hrun, huerr, houtput.trans ((readyBlock_input b).trans hinput)⟩
  rw [hpass.output_eq, containerBytes_length]

end

section
/-! PROOFS. The family 46_unpack.md, a container without its last byte (R259): what is left of it, and how DECODE ends on
data bits that stop early. -/

namespace Sys2Proof.Machine

/-! ## A walk over bits that stop early -/

section cut
variable {node : Cells Node} {root : NodeIndex} {bits rest : List Bool} (hne : rest ≠ [])
include hne

/-- Of bits that lead to a leaf, a proper beginning meets none. -/
theorem meetsNoLeaf_of_leadsTo {x : Byte} :
    ∀ {n : NodeIndex}, leadsTo node n (bits ++ rest) = some x → meetsNoLeaf node n bits = true := by
  induction bits with
  | nil => exact fun _ => rfl
  | cons bit bits ih =>
    intro n h
    rw [List.cons_append, leadsTo_cons] at h
    split at h <;> rename_i hleaf
    · simp [hne] at h
    · simp [meetsNoLeaf_cons, hleaf, ih h]

/-- A proper beginning of bits that spell symbols spells the first of them, and its last bits meet no leaf. -/
theorem exists_words_of_cut {ws : List (List Bool × Byte)} :
    ∀ {bits : List Bool}, (∀ w ∈ ws, leadsTo node root w.1 = some w.2) → bits ++ rest = ws.flatMap Prod.fst →
      ∃ done tail, done <+: ws ∧ done.length < ws.length ∧ bits = done.flatMap Prod.fst ++ tail
        ∧ meetsNoLeaf node root tail = true := by
  induction ws with
  | nil => simp [hne]
  | cons w ws ih =>
    intro bits hleads hcut
    rw [List.forall_mem_cons] at hleads
    obtain ⟨hword, hwords⟩ := hleads
    rw [List.flatMap_cons] at hcut
    by_cases hwhole : w.1 <+: bits
    · obtain ⟨bits, rfl⟩ := hwhole
      rw [List.append_assoc] at hcut
      obtain ⟨done, tail, hprefix, hlt, rfl, htail⟩ := ih hwords (List.append_cancel_left hcut)
      exact ⟨w :: done, tail, List.cons_prefix_cons.2 ⟨rfl, hprefix⟩, Nat.succ_lt_succ hlt, by simp, htail⟩
    · obtain ⟨more, hmore⟩ : bits <+: w.1 :=
        (List.prefix_or_prefix_of_prefix ⟨rest, hcut⟩ (List.prefix_append ..)).resolve_right hwhole
      have hne' : more ≠ [] := by
        rintro rfl
        exact hwhole ⟨[], by simpa using hmore.symm⟩
      exact ⟨[], bits, List.nil_prefix, Nat.succ_pos _, rfl, meetsNoLeaf_of_leadsTo hne' (hmore ▸ hword)⟩

end cut

/-- Data bits that stop before the last of the FT_TOTAL symbols they spell never decode: they stop inside a code or one
symbol short, if not before for want of room (R259). -/
theorem decodeStream_of_cut (c : Config) {b : Block} {ws : List (List Bool × Byte)} {rest : List Bool}
    (hne : b.ftCount ≠ 0) (hspells : spells b ws) (htotal : ws.length = b.ftTotal.toNat) (hrest : rest ≠ [])
    (hcut : streamBits b ++ rest = ws.flatMap Prod.fst) :
    ∃ f info, decodeStream c b = raise f info b
      ∧ (ws.length ≤ c.outCap.toNat → f = .truncated ∨ f = .lenMismatch) := by
  obtain ⟨done, tail, hprefix, hlt, hbits, htail⟩ := exists_words_of_cut hrest hspells hcut
  have hleads : ∀ w ∈ done, leadsTo b.node b.root w.1 = some w.2 := fun w hw => hspells w (hprefix.subset hw)
  obtain hover | hfits := lt_or_ge c.outCap.toNat done.length
  · refine ⟨_, _, decodeStream_of_full hne (hbits ▸ walkBits_of_spelled_full tail hleads hover 0), fun hroom => ?_⟩
    omega
  · have hwalk := walkBits_of_spelled_append (cap := c.outCap.toNat) (j := 0) (out := []) tail done hleads
      (by simpa using hfits)
    rw [← hbits, walkBits_of_meetsNoLeaf tail htail, List.nil_append] at hwalk
    by_cases hroot : tail.foldl (child b.node) b.root = b.root
    · rw [hroot] at hwalk
      exact ⟨_, _, decodeStream_of_otherLength hne hwalk (by rw [List.length_map]; omega), fun _ => .inr rfl⟩
    · exact ⟨_, _, decodeStream_of_midCode hne hwalk hroot, fun _ => .inl rfl⟩

/-- Without data bits a table that is not empty is missing its symbols (R252). -/
theorem decodeStream_of_no_bits (c : Config) {b : Block} (hne : b.ftCount ≠ 0) (htotal : b.ftTotal.toNat ≠ 0)
    (hbits : streamBits b = []) : decodeStream c b = raise .lenMismatch 0 b :=
  decodeStream_of_otherLength (start := 0) (out := []) hne (by rw [hbits]; rfl) htotal.symm

/-! ## The bytes of a container without the last -/

/-- The bytes of a container after the padding count (45_pack.md R226). -/
def dataBytes (b : Block) : List Byte := packBits (dataBits b ++ List.replicate (padOf (dataLength b)) false)

theorem expandBits_dataBytes (b : Block) :
    expandBits (dataBytes b) = dataBits b ++ List.replicate (padOf (dataLength b)) false :=
  expandBits_packBits_padded b

theorem dataBytes_length (b : Block) : 8 * (dataBytes b).length = dataLength b + padOf (dataLength b) := by
  rw [← expandBits_length, expandBits_dataBytes, List.length_append, dataBits_length, List.length_replicate]

theorem expandBits_cons (v : Byte) (l : List Byte) : expandBits (v :: l) = byteBits v ++ expandBits l := rfl

theorem expandBits_take (l : List Byte) (n : Nat) : expandBits (l.take n) = (expandBits l).take (8 * n) := by
  induction l generalizing n with
  | nil => simp [expandBits]
  | cons v l ih =>
    cases n with
    | zero => rfl
    | succ n =>
      rw [List.take_succ_cons, expandBits_cons, expandBits_cons, ih, Nat.mul_succ, Nat.add_comm]
      exact (List.take_length_add_append ..).symm

theorem containerBytes_dropLast_of_no_bits {b : Block} (h : dataLength b = 0) :
    (containerBytes b).dropLast = headerBytes b.records := by
  have hlen := dataBytes_length b
  rw [h] at hlen
  have hnil : dataBytes b = [] := by simpa [padOf] using hlen
  rw [containerBytes_eq_cons, ← dataBytes, hnil, List.dropLast_concat]

theorem containerBytes_dropLast {b : Block} (h : 0 < dataLength b) : (containerBytes b).dropLast
    = headerBytes b.records ++ BitVec.ofNat 8 (padOf (dataLength b)) :: (dataBytes b).dropLast := by
  have hlen := dataBytes_length b
  have hne : dataBytes b ≠ [] := List.ne_nil_of_length_pos (by omega)
  rw [containerBytes_eq_cons, ← dataBytes, List.dropLast_append_of_ne_nil (List.cons_ne_nil _ _),
    List.dropLast_cons_of_ne_nil hne]

/-- What is left behind the padding count: the data bits without the last eight, then as many bits as it counts. -/
theorem expandBits_dataBytes_dropLast {b : Block} (h : 8 ≤ dataLength b) :
    ∃ filler, expandBits (dataBytes b).dropLast = (dataBits b).take (dataLength b - 8) ++ filler
      ∧ filler.length = padOf (dataLength b) := by
  have hlen := dataBytes_length b
  have hbits : expandBits (dataBytes b).dropLast
      = (expandBits (dataBytes b)).take (dataLength b - 8 + padOf (dataLength b)) := by
    rw [List.dropLast_eq_take, expandBits_take]
    congr 1
    omega
  refine ⟨(expandBits (dataBytes b).dropLast).drop (dataLength b - 8), ?_, ?_⟩
  · have htake : (dataBits b).take (dataLength b - 8) = (expandBits (dataBytes b).dropLast).take (dataLength b - 8) := by
      rw [hbits, List.take_take, expandBits_dataBytes, Nat.min_eq_left (Nat.le_add_right _ _),
        List.take_append_of_le_length (by rw [dataBits_length]; omega)]
    rw [htake, List.take_append_drop]
  · rw [List.length_drop, expandBits_length, List.length_dropLast]
    omega

/-! ## DECOMPRESS of it (R259) -/

theorem unpackBlock_drop_hdrEnd {recs : List FtRecord} {b : Block} {rest : List Byte} (hcap : recs.length ≤ 256)
    (hinput : b.input = headerBytes recs ++ rest) :
    (unpackBlock recs b).input.drop (unpackBlock recs b).hdrEnd.toNat = rest := by
  rw [unpackBlock_input, unpackBlock_hdrEnd hcap, hinput]
  exact List.drop_left' (headerBytes_length recs)

theorem decompress_of_checked (c : Config) {b : Block} {recs : List FtRecord} {rest : List Byte} {r : Result}
    (hwf : tableWf recs) (hinput : b.input = headerBytes recs ++ rest)
    (hcheck : decodeChecked c (invalidateOutput (unpackBlock recs b)) = r) : decompress c b = r := by
  have hready := (decodeReady_iff (unpackBlock recs b)).2
    ⟨unpackBlock_hdrValid recs b, unpackBlock_treeReady (tableWf_length recs hwf) b⟩
  rw [decompress_of_input c hwf hinput, decodeContainer_of_ready c hready, hcheck]

/-- DECOMPRESS of a bare header (R249). -/
theorem decompress_of_header (c : Config) {b : Block} {recs : List FtRecord} (hwf : tableWf recs)
    (hinput : b.input = headerBytes recs) :
    ∃ info, decompress c b = raise .padMissing info (invalidateOutput (unpackBlock recs b)) := by
  have hcap := tableWf_length recs hwf
  have hinput' : b.input = headerBytes recs ++ [] := by rw [hinput, List.append_nil]
  have htail := congrArg List.length (unpackBlock_drop_hdrEnd hcap hinput')
  rw [List.length_drop, input_length, List.length_nil] at htail
  have hmissing : (unpackBlock recs b).inLen.toNat < (unpackBlock recs b).hdrEnd.toNat + 1 := by omega
  exact ⟨_, decompress_of_checked c hwf hinput'
    (decodeChecked_of_padMissing c (b := invalidateOutput (unpackBlock recs b)) hmissing)⟩

/-- DECOMPRESS of a header and a padding count with nothing behind it to strip (R249). -/
theorem decompress_of_bare_pad (c : Config) {b : Block} {recs : List FtRecord} {pad : Nat} (hwf : tableWf recs)
    (hpos : 0 < pad) (hrange : pad ≤ 7) (hinput : b.input = headerBytes recs ++ [BitVec.ofNat 8 pad]) :
    ∃ info, decompress c b = raise .padExceeds info (invalidateOutput (unpackBlock recs b)) := by
  have htail := unpackBlock_drop_hdrEnd (tableWf_length recs hwf) hinput
  obtain ⟨hlen, hslice⟩ := ibuf_slice_to_end (n := 1) htail rfl Nat.one_pos
  obtain ⟨hbyte, -⟩ := List.cons.inj hslice
  have hpad : padByte (unpackBlock recs b) = pad :=
    (congrArg BitVec.toNat hbyte).trans (bitVec_toNat_ofNat_of_lt (hrange.trans_lt (by decide)))
  have hnone : bitsAfterPad (unpackBlock recs b) = 0 := by
    unfold bitsAfterPad
    omega
  exact ⟨_, decompress_of_checked c hwf hinput (decodeChecked_of_padExceeds c
    (b := invalidateOutput (unpackBlock recs b)) hlen.ge (hpad.trans_le hrange) (by
      rw [invalidateOutput_padByte, hpad]
      exact hnone.trans_lt hpos))⟩

/-- Data bits come from input bytes, and those from a table that is not empty. -/
theorem PackPasses.records_ne_nil {c : Config} {b : Block} (hpass : PackPasses c b) (h : 0 < dataLength b) :
    b.records ≠ [] := by
  intro hnil
  have htotal := hpass.total
  rw [ftTotal_of_empty ((records_eq_nil_iff b).1 hnil)] at htotal
  exact h.ne' (dataLength_of_inLen_zero ((bitVec_toNat_eq_zero_iff _).1 htotal.symm))

section truncated
variable {c : Config} {b u : Block} (hpass : PackPasses c b) (hflags : flagsFaithful b)
  (hinput : u.input = (containerBytes b).dropLast)
include hpass hflags hinput

theorem decompress_truncated_of_no_bits (c' : Config) (h : dataLength b = 0) :
    ∃ info, decompress c' u = raise .padMissing info (invalidateOutput (unpackBlock b.records u)) :=
  decompress_of_header c' (hpass.tableWf_records hflags) (hinput.trans (containerBytes_dropLast_of_no_bits h))

theorem decompress_truncated_of_one_byte (c' : Config) (hpos : 0 < dataLength b) (hlt : dataLength b < 8) :
    ∃ info, decompress c' u = raise .padExceeds info (invalidateOutput (unpackBlock b.records u)) := by
  have hpad : padOf (dataLength b) = 8 - dataLength b := by
    unfold padOf
    omega
  have hlen := dataBytes_length b
  have hnil : (dataBytes b).dropLast = [] := List.length_eq_zero_iff.1 (by rw [List.length_dropLast]; omega)
  rw [containerBytes_dropLast hpos, hnil] at hinput
  exact decompress_of_bare_pad c' (hpass.tableWf_records hflags) (by omega) (by omega) hinput

/-- With eight data bits or more all but the last eight are left, and decoded. -/
theorem decompress_truncated_of_bytes (c' : Config) (h : 8 ≤ dataLength b) :
    streamBits (unpackBlock b.records u) = (dataBits b).take (dataLength b - 8)
      ∧ decompress c' u = decodeStream c' (invalidateOutput (unpackBlock b.records u)) := by
  have hwf := hpass.tableWf_records hflags
  rw [containerBytes_dropLast (by omega)] at hinput
  obtain ⟨filler, hbits, hfiller⟩ := expandBits_dataBytes_dropLast h
  have hstream := unpackBlock_holdsStream hwf hinput (Nat.le_of_lt_succ (padOf_lt _)) hbits hfiller
  refine ⟨hstream.streamBits_eq, ?_⟩
  rw [decompress_of_input c' hwf hinput, decodeContainer_of_starts c' (hstream.decodeStarts
    (unpackBlock_hdrValid _ _) (unpackBlock_treeReady (tableWf_length _ hwf) u))]

/-- With eight data bits or more the walk ends a symbol short at least, and with eight before its first. -/
theorem decompress_truncated_short (c' : Config) (h : 8 ≤ dataLength b) :
    ∃ f info, decompress c' u = raise f info (invalidateOutput (unpackBlock b.records u))
      ∧ (b.inLen.toNat ≤ c'.outCap.toNat → f = .truncated ∨ f = .lenMismatch)
      ∧ (dataLength b = 8 → f = .lenMismatch) := by
  obtain ⟨hbits, hrun⟩ := decompress_truncated_of_bytes hpass hflags hinput c' h
  have hcap := tableWf_length _ (hpass.tableWf_records hflags)
  have hnil := hpass.records_ne_nil (h.trans_lt' (by decide))
  have hne : (unpackBlock b.records u).ftCount ≠ 0 := by
    rwa [ne_eq, ← records_eq_nil_iff, unpackBlock_records hcap]
  have hwords := hpass.codedInput_total hflags
  have htotal : (codedInput b).length = (unpackBlock b.records u).ftTotal.toNat :=
    hwords.trans (unpackBlock_ftTotal hcap u).symm
  obtain height | hmore := h.eq_or_lt
  · have hempty : streamBits (unpackBlock b.records u) = [] := by rw [hbits, ← height]; rfl
    have hsome : (unpackBlock b.records u).ftTotal.toNat ≠ 0 := by
      rw [← htotal, codedInput_length]
      exact fun h0 => absurd (dataLength_of_inLen_zero ((bitVec_toNat_eq_zero_iff _).1 h0)) (by omega)
    have hstream := decodeStream_of_no_bits c' (b := invalidateOutput (unpackBlock b.records u)) hne hsome hempty
    exact ⟨_, _, hrun.trans hstream, fun _ => .inr rfl, fun _ => rfl⟩
  · have hrest : (dataBits b).drop (dataLength b - 8) ≠ [] :=
      List.ne_nil_of_length_pos (by rw [List.length_drop, dataBits_length]; omega)
    have hcut : streamBits (unpackBlock b.records u) ++ (dataBits b).drop (dataLength b - 8)
        = (codedInput b).flatMap Prod.fst := by
      rw [hbits, List.take_append_drop, codedInput_bits]
    obtain ⟨f, info, hstream, hfault⟩ := decodeStream_of_cut c' (b := invalidateOutput (unpackBlock b.records u)) hne
      (unpackBlock_spells hcap u hwords (hpass.codedInput_leadsTo hflags)) htotal hrest hcut
    exact ⟨f, info, hrun.trans hstream, fun hroom => hfault ((codedInput_length b).trans_le hroom),
      fun height => by omega⟩

/-- Without its last byte a container is refused, by a fault its number of data bits decides when there is room (R259). -/
theorem decompress_truncated (c' : Config) :
    ∃ f info, decompress c' u = raise f info (invalidateOutput (unpackBlock b.records u))
      ∧ (b.inLen.toNat ≤ c'.outCap.toNat →
        (dataLength b = 0 → f = .padMissing)
        ∧ (1 ≤ dataLength b → dataLength b ≤ 7 → f = .padExceeds)
        ∧ (dataLength b = 8 → f = .lenMismatch)
        ∧ (8 < dataLength b → f = .truncated ∨ f = .lenMismatch)) := by
  obtain hnone | hpos := Nat.eq_zero_or_pos (dataLength b)
  · obtain ⟨info, hrun⟩ := decompress_truncated_of_no_bits hpass hflags hinput c' hnone
    exact ⟨_, info, hrun, fun _ => ⟨fun _ => rfl, by omega, by omega, by omega⟩⟩
  obtain hlt | hge := lt_or_ge (dataLength b) 8
  · obtain ⟨info, hrun⟩ := decompress_truncated_of_one_byte hpass hflags hinput c' hpos hlt
    exact ⟨_, info, hrun, fun _ => ⟨by omega, fun _ _ => rfl, by omega, by omega⟩⟩
  · obtain ⟨f, info, hrun, hfault, height⟩ := decompress_truncated_short hpass hflags hinput c' hge
    exact ⟨f, info, hrun, fun hroom => ⟨by omega, by omega, height, fun _ => hfault hroom⟩⟩

end truncated

end Sys2Proof.Machine

open Sys2Proof Sys2Proof.Machine

/-- Settles O53: what is left of the container is its header, and behind it no padding count, a padding count that strips
more than there is, or data bits that stop a symbol short at least (`decompress_truncated`). -/
theorem truncationIsReported : Obligations.TruncationIsReported := by
  unfold Obligations.TruncationIsReported
  intro s t u herr hflags hexec hok huerr hinput
  obtain rfl := Host.Outcome.next.inj ((exec_pack s herr).symm.trans hexec)
  have hpass := packPasses_of_no_fault hok
  rw [hpass.pack_eq, result_ok_block, withBlk_blk] at hinput ⊢
  rw [hpass.output_eq] at hinput
  obtain ⟨f, info, hrun, hfault⟩ := decompress_truncated hpass hflags hinput u.cfg
  refine ⟨_, exec_decompress_of_eq huerr hrun, rfl, unpackBlock_hdrValid _ _, rfl, rfl, fun hroom => ?_⟩
  obtain ⟨hnone, hfew, height, hmore⟩ := hfault hroom
  rw [hpass.dbits_eq]
  exact ⟨fun h => congrArg FaultKind.code (hnone h), fun hpos h => congrArg FaultKind.code (hfew hpos h),
    fun h => congrArg FaultKind.code (height h),
    fun h => (hmore h).imp (congrArg FaultKind.code) (congrArg FaultKind.code)⟩

end

section
/-! PROOFS. The family 60_exceptions.md: how a transaction ends, by completing or by a fault of its own (R301, R308, R310,
R311), what it leaves of the registers only the host writes, and the error state (R303, R315). -/

namespace Sys2Proof.Machine

/-! ## How a rule ends -/

/-- The contents of IN_SEL, FT_SEL, NODE_SEL, CT_SEL, OUT_SEL and FT_SYM. -/
abbrev Selects := Word × BitVec 8 × NodeIndex × BitVec 8 × Word × Byte

/-- The select registers and FT_SYM, which the host alone writes (40_host_access.md R144, R145, R147 to R150). -/
def Block.selects (b : Block) : Selects :=
  (b.inSel, b.ftSel, b.nodeSel, b.ctSel, b.outSel, b.ftSym)

/-- The two ends of a rule that starts on a block without an error: it completes without one, or it raises one of `faults`
on a block that its clean-up may leave (R310). The select registers hold `selects` either way. -/
inductive Ends (faults : List FaultKind) (cleaned : Block → Prop) (selects : Selects) : Result → Prop where
  | completed {b : Block} (clear : b.err = false) (kept : b.selects = selects) : Ends faults cleaned selects (.ok b)
  | raised {f : FaultKind} {info : Nat} {b : Block} (own : f ∈ faults) (clean : cleaned b) (kept : b.selects = selects) :
      Ends faults cleaned selects (raise f info b)

namespace Ends
variable {faults faults' : List FaultKind} {cleaned cleaned' : Block → Prop} {selects : Selects} {r : Result}

theorem imp (h : Ends faults cleaned selects r) (hfaults : faults ⊆ faults') (hcleaned : ∀ b, cleaned b → cleaned' b) :
    Ends faults' cleaned' selects r := by
  cases h with
  | completed hclear hkept => exact .completed hclear hkept
  | raised hown hclean hkept => exact .raised (hfaults hown) (hcleaned _ hclean) hkept

theorem selects_eq (h : Ends faults cleaned selects r) : r.block.selects = selects := by
  cases h with
  | completed _ hkept => exact hkept
  | raised _ _ hkept => exact hkept

end Ends

/-! ## How each rule ends -/

/-- FTCheck finds a zero count or a repeated symbol (10_state.md R46). -/
theorem ftCheckFrom_fault_mem {f : FaultKind} {j : Nat} (recs : List FtRecord) :
    ∀ {k : Nat} {seen : List Byte}, ftCheckFrom k seen recs = some (f, j) → f ∈ [FaultKind.ftZero, .ftDup] := by
  induction recs with
  | nil => exact fun h => nomatch h
  | cons r recs ih =>
    intro k seen h
    rw [ftCheckFrom] at h
    split at h
    · cases h
      decide
    · split at h
      · cases h
        decide
      · exact ih h

theorem ftCheck_fault_mem {recs : List FtRecord} {f : FaultKind} {j : Nat} (h : ftCheck recs = some (f, j))
    {faults : List FaultKind} (hfaults : [.ftZero, .ftDup] ⊆ faults) : f ∈ faults :=
  hfaults (ftCheckFrom_fault_mem recs h)

/-- PARSE raises a fault of its own, or its table has passed every check (46_unpack.md R242). -/
theorem parse_ends_cases (c : Config) (b : Block) :
    (∃ f ∈ Instr.mayRaise .parse, ∃ info, parse c b = raise f info (dropTable b))
    ∨ (headerCount b ≤ 256 ∧ ftCheck (headerRecords b) = none
      ∧ parse c b = .ok (storeHeader (headerRecords b) (dropTable b))) := by
  obtain ⟨-, hparse⟩ | ⟨-, -, hparse⟩ | ⟨-, -, -, hparse⟩ | ⟨f, k, -, -, -, hcheck, hparse⟩
    | ⟨-, hcount, -, hcheck, hparse⟩ := parse_cases c b
  · exact .inl ⟨_, by decide, _, hparse⟩
  · exact .inl ⟨_, by decide, _, hparse⟩
  · exact .inl ⟨_, by decide, _, hparse⟩
  · exact .inl ⟨f, ftCheck_fault_mem hcheck (by decide), k, hparse⟩
  · exact .inr ⟨hcount, hcheck, hparse⟩

section rules
variable (c : Config) {b : Block} (herr : b.err = false)
include herr

theorem inPush_ends (x : Byte) : Ends (Instr.mayRaise (.wrInPush x)) (· = b) b.selects (inPush x c b) := by
  obtain ⟨-, hpush⟩ | ⟨-, hpush⟩ := inPush_cases x c b <;> rw [hpush]
  · exact .raised (List.mem_singleton.2 rfl) rfl rfl
  · exact .completed herr rfl

theorem ftPush_ends (count : Word) : Ends (Instr.mayRaise (.wrFtPush count)) (· = b) b.selects (ftPush count c b) := by
  obtain ⟨-, hpush⟩ | ⟨-, hpush⟩ := ftPush_cases count c b <;> rw [hpush]
  · exact .raised (List.mem_singleton.2 rfl) rfl rfl
  · exact .completed herr rfl

theorem freq_ends : Ends (Instr.mayRaise .freq) (· = b) b.selects (freq c b) := .completed herr rfl

theorem build_ends : Ends (Instr.mayRaise .build) (· = invalidateTree b) b.selects (build c b) := by
  obtain ⟨-, hbuild⟩ | ⟨f, k, -, hcheck, hbuild⟩ | ⟨-, -, hbuild⟩ := build_cases c b <;> rw [hbuild]
  · exact .raised (by decide) rfl rfl
  · exact .raised (ftCheck_fault_mem hcheck (by decide)) rfl rfl
  · exact .completed herr rfl

theorem genc_ends : Ends (Instr.mayRaise .genc) (· = b) b.selects (genc c b) := by
  obtain ⟨-, hgenc⟩ | ⟨-, hgenc⟩ := genc_cases c b <;> rw [hgenc]
  · exact .completed herr rfl
  · exact .raised (by decide) rfl rfl

theorem packChecked_ends :
    Ends [.ftMismatch, .noCode, .outOverflow] (· = b) b.selects (packChecked c b) := by
  obtain ⟨-, hcheck⟩ | ⟨i, -, -, hcheck⟩ | ⟨-, -, -, hcheck⟩ | ⟨-, -, -, hcheck⟩ := packChecked_cases c b <;> rw [hcheck]
  · exact .raised (by decide) rfl rfl
  · exact .raised (by decide) rfl rfl
  · exact .raised (by decide) rfl rfl
  · exact .completed herr rfl

theorem pack_ends :
    Ends (Instr.mayRaise .pack) (fun b' => b' = b ∨ b' = invalidateOutput b) b.selects (pack c b) := by
  obtain ⟨-, hpack⟩ | ⟨-, hpack⟩ := pack_cases c b <;> rw [hpack]
  · exact (packChecked_ends c (b := invalidateOutput b) herr).imp (List.subset_cons_self _ _) fun _ => .inr
  · exact .raised (by decide) (.inl rfl) rfl

theorem parse_ends : Ends (Instr.mayRaise .parse) (· = dropTable b) b.selects (parse c b) := by
  obtain ⟨f, hown, info, hparse⟩ | ⟨-, -, hparse⟩ := parse_ends_cases c b <;> rw [hparse]
  · exact .raised hown rfl rfl
  · exact .completed herr rfl

theorem finishDecode_ends (out : List Byte) : Ends [.lenMismatch] (· = b) b.selects (finishDecode out b) := by
  obtain ⟨-, hfinish⟩ | ⟨-, hfinish⟩ := finishDecode_cases out b <;> rw [hfinish]
  · exact .raised (by decide) rfl rfl
  · exact .completed herr rfl

theorem decodeStream_ends :
    Ends [.outOverflow, .truncated, .lenMismatch] (· = b) b.selects (decodeStream c b) := by
  have hfinish : ∀ out, Ends [.outOverflow, .truncated, .lenMismatch] (· = b) b.selects (finishDecode out b) :=
    fun out => (finishDecode_ends herr out).imp (by decide) fun _ => id
  obtain ⟨-, -, hdec⟩ | ⟨-, -, hdec⟩ | ⟨out, -, -, hdec⟩ | ⟨n, start, out, -, -, -, hdec⟩ | ⟨start, out, -, -, hdec⟩ :=
    decodeStream_cases c b <;> rw [hdec]
  · exact .raised (by decide) rfl rfl
  · exact hfinish []
  · exact .raised (by decide) rfl rfl
  · exact .raised (by decide) rfl rfl
  · exact hfinish out

theorem decodeChecked_ends :
    Ends [.padMissing, .padRange, .padExceeds, .outOverflow, .truncated, .lenMismatch] (· = b) b.selects
      (decodeChecked c b) := by
  obtain ⟨-, hcheck⟩ | ⟨-, -, hcheck⟩ | ⟨-, -, -, hcheck⟩ | ⟨-, -, -, hcheck⟩ := decodeChecked_cases c b <;> rw [hcheck]
  · exact .raised (by decide) rfl rfl
  · exact .raised (by decide) rfl rfl
  · exact .raised (by decide) rfl rfl
  · exact (decodeStream_ends c herr).imp (by decide) fun _ => id

theorem decodeContainer_ends :
    Ends (Instr.mayRaise .decode) (fun b' => b' = b ∨ b' = invalidateOutput b) b.selects (decodeContainer c b) := by
  obtain ⟨-, hdec⟩ | ⟨-, hdec⟩ := decodeContainer_cases c b <;> rw [hdec]
  · exact (decodeChecked_ends c (b := invalidateOutput b) herr).imp (List.subset_cons_self _ _) fun _ => .inr
  · exact .raised (by decide) (.inl rfl) rfl

end rules

/-! ## The pipeline commands (47_macro.md R262) -/

theorem readyBlock_selects (b : Block) : (readyBlock b).selects = b.selects :=
  (congrArg Block.selects (treedBlock_frame _)).trans rfl

theorem unpackBlock_selects (recs : List FtRecord) (b : Block) : (unpackBlock recs b).selects = b.selects :=
  (congrArg Block.selects (unpackBlock_frame recs b)).trans rfl

theorem invalidateOutput_selects (b : Block) : (invalidateOutput b).selects = b.selects := rfl

theorem packedBlock_selects (b : Block) : (packedBlock b).selects = b.selects := rfl

theorem pack_of_overflow {c : Config} {b : Block} (hready : packReady b = true) (htotal : b.ftTotal.toNat = b.inLen.toNat)
    (hcoded : firstWithoutCode b = none) (h : c.outCap.toNat < containerSize b) :
    pack c b = raise .outOverflow (containerSize b) (invalidateOutput b) :=
  (pack_of_ready c hready).trans (packChecked_of_overflow c (b := invalidateOutput b) htotal hcoded h)

/-- COMPRESS comes to PACK with a table of the input and all its codes: no check but the last can fail (R262). -/
theorem compress_of_overflow {c : Config} {b : Block} (h : c.outCap.toNat < containerSize (readyBlock b)) :
    compress c b = raise .outOverflow (containerSize (readyBlock b)) (invalidateOutput (readyBlock b)) :=
  (compress_eq c b).trans
    (pack_of_overflow (packReady_readyBlock b) (readyBlock_ftTotal b) (firstWithoutCode_readyBlock b) h)

theorem compress_of_fits {c : Config} {b : Block} (h : containerSize (readyBlock b) ≤ c.outCap.toNat) :
    compress c b = .ok (packedBlock (readyBlock b)) :=
  (compress_eq c b).trans (packPasses_readyBlock h).pack_eq

/-- DECOMPRESS comes to DECODE with the header valid and the tree built, or needing none: DECODE raises no E_SEQUENCE, and
BUILD, of a table that PARSE has checked, nothing (R262). -/
theorem decompress_of_parsed (c : Config) {b : Block} (hcount : headerCount b ≤ 256)
    (hparse : parse c b = .ok (storeHeader (headerRecords b) (dropTable b))) (hcheck : ftCheck (headerRecords b) = none) :
    decompress c b = decodeChecked c (invalidateOutput (unpackBlock (headerRecords b) b)) := by
  have hcap : (headerRecords b).length ≤ 256 := (headerRecords_length b).trans_le hcount
  have hready := (decodeReady_iff (unpackBlock (headerRecords b) b)).2
    ⟨unpackBlock_hdrValid _ b, unpackBlock_treeReady hcap b⟩
  rw [decompress, hparse, andThen_ok,
    treeOnly_of_tableWf c (by rwa [storeHeader_records _ _ hcap, ← ftCheck_none]), andThen_ok,
    ← decodeContainer_of_ready c hready, unpackBlock]

section pipeline
variable (c : Config) {b : Block} (herr : b.err = false)
include herr

theorem compress_ends :
    Ends (Instr.mayRaise .compress) (· = invalidateOutput (readyBlock b)) b.selects (compress c b) := by
  obtain hover | hfits := lt_or_ge c.outCap.toNat (containerSize (readyBlock b))
  · rw [compress_of_overflow hover]
    exact .raised (by decide) rfl ((invalidateOutput_selects _).trans (readyBlock_selects b))
  · rw [compress_of_fits hfits]
    exact .completed ((packedBlock_err _).trans ((readyBlock_err b).trans herr))
      ((packedBlock_selects _).trans (readyBlock_selects b))

theorem decompress_ends : Ends (Instr.mayRaise .decompress)
    (fun b' => b' = dropTable b ∨ b' = invalidateOutput (unpackBlock (headerRecords b) b)) b.selects
    (decompress c b) := by
  obtain ⟨f, hown, info, hparse⟩ | ⟨hcount, hcheck, hparse⟩ := parse_ends_cases c b
  · have hsubset : Instr.mayRaise .parse ⊆ Instr.mayRaise .decompress := by decide
    rw [decompress, hparse, andThen_raise, andThen_raise]
    exact .raised (hsubset hown) (.inl rfl) rfl
  · rw [decompress_of_parsed c hcount hparse hcheck, ← unpackBlock_selects (headerRecords b) b,
      ← invalidateOutput_selects]
    exact (decodeChecked_ends c ((invalidateOutput_err _).trans ((unpackBlock_err _ b).trans herr))).imp (by decide)
      fun _ => .inr

end pipeline

/-! ## How a transaction ends -/

/-- The blocks on which transaction `i`, begun on `b`, may record a fault: after the clean-up of the rule, or (PACK and
DECODE out of sequence) before it. A pipeline command has run its earlier steps by then (47_macro.md R262). -/
def CleanedUp (i : Instr) (b b' : Block) : Prop :=
  match i with
  | .build => b' = invalidateTree b
  | .pack => b' = b ∨ b' = invalidateOutput b
  | .decode => b' = b ∨ b' = invalidateOutput b
  | .parse => b' = dropTable b
  | .compress => b' = invalidateOutput (readyBlock b)
  | .decompress => b' = dropTable b ∨ b' = invalidateOutput (unpackBlock (headerRecords b) b)
  | _ => b' = b

/-- With STATUS.ERR = 0 a gated write ends as its rule does. -/
theorem gated_ends {faults : List FaultKind} {cleaned : Block → Prop} {s : State} (rule : Config → Block → Result)
    (herr : s.blk.err = false) (h : Ends faults cleaned s.blk.selects (rule s.cfg s.blk)) :
    ∃ r, Ends faults cleaned s.blk.selects r ∧ Host.Outcome.next (s.gated rule)
      = (.next (s.withBlk r.block) : Host.Outcome State Fault Refusal) :=
  ⟨_, h, congrArg Host.Outcome.next (gated_of_clear s rule herr)⟩

/-- How each data-changing write ends (R301, R308, R311). -/
theorem exec_ends {i : Instr} {s : State} (hgated : i.isGated = true) (herr : s.blk.err = false) :
    ∃ r, Ends i.mayRaise (CleanedUp i s.blk) s.blk.selects r ∧ exec i s = .next (s.withBlk r.block) := by
  cases i
  case nop => exact gated_ends nop herr (.completed herr rfl)
  case iclr => exact gated_ends iclr herr (.completed herr rfl)
  case fclr => exact gated_ends fclr herr (.completed herr rfl)
  case freq => exact gated_ends freq herr (freq_ends _ herr)
  case build => exact gated_ends build herr (build_ends _ herr)
  case genc => exact gated_ends genc herr (genc_ends _ herr)
  case pack => exact gated_ends pack herr (pack_ends _ herr)
  case parse => exact gated_ends parse herr (parse_ends _ herr)
  case decode => exact gated_ends decodeContainer herr (decodeContainer_ends _ herr)
  case compress => exact gated_ends compress herr (compress_ends _ herr)
  case decompress => exact gated_ends decompress herr (decompress_ends _ herr)
  case cmdIllegal word => exact gated_ends (illegalCommand word) herr (.raised (List.mem_singleton.2 rfl) rfl rfl)
  case wrInPush x => exact gated_ends (inPush x) herr (inPush_ends _ herr x)
  case wrFtPush count => exact gated_ends (ftPush count) herr (ftPush_ends _ herr count)
  all_goals cases hgated

/-- While STATUS.ERR = 1 a data-changing write does nothing (R303). -/
theorem exec_gated_of_err {i : Instr} {s : State} (hgated : i.isGated = true) (herr : s.blk.err = true) :
    exec i s = .next s := by
  obtain ⟨-, rule, hrule⟩ | ⟨hnot, -⟩ | ⟨hnot, -⟩ := exec_cases i
  · rw [hrule, gated_of_err s rule herr]
  · cases hgated.symm.trans hnot
  · cases hgated.symm.trans hnot

/-- Of the transactions the gate does not stop, SRST alone touches the error registers. -/
theorem exec_ungated_keeps_error {i : Instr} (hgated : i.isGated = false) (hsrst : i ≠ .srst) (s : State) :
    ∃ t, exec i s = .next t ∧ t.blk.err = s.blk.err ∧ t.blk.errCode = s.blk.errCode
      ∧ t.blk.errInfo = s.blk.errInfo := by
  cases i
  case srst => exact absurd rfl hsrst
  case nop | iclr | fclr | freq | build | genc | pack | parse | decode | compress | decompress | cmdIllegal
      | wrInPush | wrFtPush => cases hgated
  all_goals exact ⟨_, rfl, rfl, rfl, rfl⟩

/-- A transaction that raises a fault is a data-changing write and records one of its own on a block its clean-up leaves
(R308, R310). -/
theorem exec_fault {i : Instr} {s t : State} (herr : s.blk.err = false) (hexec : exec i s = .next t)
    (hfault : t.blk.err = true) :
    ∃ f ∈ i.mayRaise, ∃ info b, CleanedUp i s.blk b ∧ t = s.withBlk (faultEntry f info b) := by
  cases hgated : i.isGated with
  | true =>
    obtain ⟨r, hends, hnext⟩ := exec_ends hgated herr
    obtain rfl := Host.Outcome.next.inj (hnext.symm.trans hexec)
    cases hends with
    | completed hclear => cases hclear.symm.trans hfault
    | raised hown hclean => exact ⟨_, hown, _, _, hclean, rfl⟩
  | false =>
    by_cases hsrst : i = .srst
    · subst hsrst
      obtain rfl := Host.Outcome.next.inj hexec
      cases hfault
    · obtain ⟨u, hnext, hkeeps, -⟩ := exec_ungated_keeps_error hgated hsrst s
      obtain rfl := Host.Outcome.next.inj (hnext.symm.trans hexec)
      cases (hkeeps.trans herr).symm.trans hfault

/-- SRST has one word (41_control.md R171). -/
theorem eq_of_decode_eq_srst {w : Transaction} (h : decode w = .srst) : w = 0x10000000001 := by
  have hrow : ∀ r ∈ opcodeTable, r.mnemonic = "SRST" → r = ⟨"SRST", 0x10000000001, 0x1FFFFFFFFFF⟩ := by decide
  have hkind := firstRowKind_eq_mnemonic_decode w
  rw [h, firstRowKind, Option.map_eq_some_iff] at hkind
  obtain ⟨r, hfind, hname⟩ := hkind
  have htakes := List.find?_some hfind
  rw [hrow r (List.mem_of_find?_eq_some hfind) hname] at htakes
  exact (takes_fullMask _ _ w).1 htakes

end Sys2Proof.Machine

open Sys2Proof Sys2Proof.Machine

/-- Settles O20: the ERR gate stops every data-changing write (`exec_gated_of_err`); SRST, the select writes and the reads
do not pass through it. -/
theorem stickyErrorIgnoresGatedWrites : Obligations.StickyErrorIgnoresGatedWrites := by
  unfold Obligations.StickyErrorIgnoresGatedWrites
  refine fun s herr => ⟨fun i hgated => exec_gated_of_err hgated herr, rfl, fun _ => ⟨rfl, rfl⟩, fun _ => ⟨rfl, rfl, rfl⟩,
    fun _ => rfl, fun i hread => ?_⟩
  obtain ⟨v, hyields, -⟩ := read_ignores_bus i hread s
  exact ⟨v, hyields⟩

/-- Settles O21: an idle step changes nothing and a hard reset resets; of the transactions the gate stops some
(`exec_gated_of_err`), and of the others SRST alone, which has one word (`eq_of_decode_eq_srst`), touches the error
registers (`exec_ungated_keeps_error`). -/
theorem onlyResetLeavesTheErrorState : Obligations.OnlyResetLeavesTheErrorState := by
  unfold Obligations.OnlyResetLeavesTheErrorState
  intro s t hstep herr
  obtain ⟨-, hidle⟩ | ⟨rest, hpending, hreset⟩ | ⟨w, rest, hpending, htrans⟩ := step_cases s
  · obtain rfl := Host.Outcome.next.inj (hidle.symm.trans hstep)
    exact .inr ⟨herr, rfl, rfl⟩
  · obtain rfl := Host.Outcome.next.inj (hreset.symm.trans hstep)
    exact .inl ⟨rfl, _, _, hpending, .inl rfl⟩
  · rw [htrans] at hstep
    cases hgated : (decode w).isGated with
    | true =>
      obtain rfl := Host.Outcome.next.inj ((exec_gated_of_err (s := s.withPending rest) hgated herr).symm.trans hstep)
      exact .inr ⟨herr, rfl, rfl⟩
    | false =>
      by_cases hsrst : decode w = .srst
      · rw [hsrst] at hstep
        obtain rfl := Host.Outcome.next.inj hstep
        exact .inl ⟨rfl, _, _, hpending, .inr (congrArg _ (eq_of_decode_eq_srst hsrst))⟩
      · obtain ⟨u, hnext, hkeeps, hcode, hinfo⟩ := exec_ungated_keeps_error hgated hsrst (s.withPending rest)
        obtain rfl := Host.Outcome.next.inj (hnext.symm.trans hstep)
        exact .inr ⟨hkeeps.trans herr, hcode, hinfo⟩

/-- Settles O22: a fault is recorded on a block that the clean-up of the rule leaves (`exec_fault`), which is one of those
the statement lists. -/
theorem faultsAreTheirOwnAndPrecise : Obligations.FaultsAreTheirOwnAndPrecise := by
  unfold Obligations.FaultsAreTheirOwnAndPrecise
  intro i s t hcompress hdecompress herr hexec hfault
  obtain ⟨f, hown, info, b, hclean, rfl⟩ := exec_fault herr hexec hfault
  refine ⟨rfl, rfl, ⟨f, hown, rfl⟩, b, ?_, rfl⟩
  cases i
  case compress => exact absurd rfl hcompress
  case decompress => exact absurd rfl hdecompress
  case build => exact .inr (.inl ⟨rfl, hclean⟩)
  case pack => exact hclean.imp_right fun h => .inr (.inl ⟨.inl rfl, h⟩)
  case decode => exact hclean.imp_right fun h => .inr (.inl ⟨.inr rfl, h⟩)
  case parse => exact .inr (.inr (.inr ⟨rfl, hclean⟩))
  all_goals exact .inl hclean

end

section
/-! PROOFS. The family 70_reset_and_hazards.md: SRST and a hard reset (R350, R351), what the block then reads as
(10_state.md R75), and the registers only the host writes (R361). -/

namespace Sys2Proof.Machine

/-- Every register but ID and the two capacities reads 0 in the reset block (10_state.md R75). -/
theorem readsAs_zero_of_reset {s : State} {i : Instr} (hblk : s.blk = Block.reset) (hread : i.isRead = true)
    (hid : i ≠ .rdId) (hcapIn : i ≠ .rdCapIn) (hcapOut : i ≠ .rdCapOut) : readsAs i s 0 := by
  obtain ⟨c, b, bus⟩ := s
  obtain rfl : b = Block.reset := hblk
  cases i
  case rdId => exact absurd rfl hid
  case rdCapIn => exact absurd rfl hcapIn
  case rdCapOut => exact absurd rfl hcapOut
  case nop | srst | iclr | fclr | freq | build | genc | pack | parse | decode | compress | decompress | cmdIllegal
      | wrInPush | wrInSel | wrFtSym | wrFtPush | wrFtSel | wrNodeSel | wrCtSel | wrOutSel | wrIgnored =>
    simp [Instr.isRead, encode] at hread
  case rdStatus => exact readsAs_of_eq rfl (show readStatus Block.reset = 0 by decide)
  case rdErr => exact readsAs_of_eq rfl (show readErr Block.reset = 0 by decide)
  case rdFtTotalHi => exact readsAs_of_eq rfl (show readFtTotalHi Block.reset = 0 by decide)
  case rdDbitsHi => exact readsAs_of_eq rfl (show readDbitsHi Block.reset = 0 by decide)
  all_goals rfl

end Sys2Proof.Machine

open Sys2Proof Sys2Proof.Machine

/-- Settles O23: SRST and a hard reset both put the reset block in place of the old one, of which every register and window
reads 0 (`readsAs_zero_of_reset`). -/
theorem srstIsTheResetState : Obligations.SrstIsTheResetState := by
  unfold Obligations.SrstIsTheResetState
  refine ⟨fun s => ⟨rfl, hardReset_blk s⟩, ?_, fun s i => readsAs_zero_of_reset⟩
  rintro b rfl
  exact ⟨rfl, rfl, rfl, rfl, rfl, rfl, rfl, rfl, rfl, rfl, rfl, rfl, rfl, rfl, rfl, rfl, rfl, rfl, rfl, rfl, rfl⟩

/-- Settles O60: with ERR set nothing changes (`exec_gated_of_err`), else every rule keeps the select registers however it
ends (`exec_ends`). -/
theorem commandsKeepTheSelectRegisters : Obligations.CommandsKeepTheSelectRegisters := by
  unfold Obligations.CommandsKeepTheSelectRegisters
  intro i s t hgated hexec
  suffices hselects : t.blk.selects = s.blk.selects by simpa only [Block.selects, Prod.mk.injEq] using hselects
  cases herr : s.blk.err with
  | true =>
    obtain rfl := Host.Outcome.next.inj ((exec_gated_of_err hgated herr).symm.trans hexec)
    rfl
  | false =>
    obtain ⟨r, hends, hnext⟩ := exec_ends hgated herr
    obtain rfl := Host.Outcome.next.inj (hnext.symm.trans hexec)
    exact hends.selects_eq

end

section
/-! PROOFS. The family 47_macro.md: the pipeline commands as chains of their steps (R260 to R262), when COMPRESS completes,
and what DECOMPRESS returns. -/

namespace Sys2Proof.Machine

/-! ## A chain of rules behind the gate is its rules one after another -/

theorem andThen_assoc (r : Result) (k l : Block → Result) :
    (r.andThen k).andThen l = r.andThen fun b => (k b).andThen l := by
  cases r <;> rfl

/-- A rule that faults sets STATUS.ERR, and the gate then stops the next (R262). -/
theorem gated_andThen {rule next : Config → Block → Result} {faults : List FaultKind} {cleaned : Block → Prop} {s : State}
    (hends : s.blk.err = false → Ends faults cleaned s.blk.selects (rule s.cfg s.blk)) :
    s.gated (fun c b => (rule c b).andThen (next c)) = (s.gated rule).gated next := by
  cases herr : s.blk.err with
  | true => rw [gated_of_err s _ herr, gated_of_err s rule herr, gated_of_err s next herr]
  | false =>
    rw [gated_of_clear s _ herr, gated_of_clear s rule herr]
    have hrule := hends herr
    generalize rule s.cfg s.blk = r at hrule ⊢
    cases hrule with
    | completed hclear => exact (gated_of_clear (s.withBlk _) next hclear).symm
    | raised => exact (gated_of_err _ next rfl).symm

theorem gated_congr {s : State} {rule rule' : Config → Block → Result} (h : rule s.cfg s.blk = rule' s.cfg s.blk) :
    s.gated rule = s.gated rule' := by
  rw [State.gated, h, ← State.gated]

theorem exec_compress_of_eq {s : State} {r : Result} (herr : s.blk.err = false) (hcompress : compress s.cfg s.blk = r) :
    exec .compress s = .next (s.withBlk r.block) :=
  congrArg Host.Outcome.next (gated_of_clear_of_eq herr hcompress)

/-! ## The steps of COMPRESS and DECOMPRESS -/

/-- COMPRESS after FREQ: BUILD and GENC unless the table is empty, then PACK (R260). -/
def compressCounted (c : Config) (b : Block) : Result := (treeAndCodes c b).andThen (pack c)

theorem gated_compress (s : State) : s.gated compress = (s.gated freq).gated compressCounted := by
  rw [← gated_andThen fun herr => freq_ends s.cfg herr]
  exact gated_congr (andThen_assoc ..)

theorem gated_compressCounted_of_empty {u : State} (h : u.blk.ftCount = 0) : u.gated compressCounted = u.gated pack :=
  gated_congr (by rw [compressCounted, treeAndCodes, if_pos h, andThen_ok])

theorem gated_compressCounted_of_table {u : State} (h : u.blk.ftCount ≠ 0) :
    u.gated compressCounted = ((u.gated build).gated genc).gated pack := by
  rw [← gated_andThen fun herr => genc_ends (u.gated build).cfg herr, ← gated_andThen fun herr => build_ends u.cfg herr]
  exact gated_congr (by rw [compressCounted, treeAndCodes, if_neg h, andThen_assoc])

/-- DECOMPRESS after PARSE: BUILD unless the table is empty, then DECODE (R261). -/
def decompressParsed (c : Config) (b : Block) : Result := (treeOnly c b).andThen (decodeContainer c)

theorem gated_decompress (s : State) : s.gated decompress = (s.gated parse).gated decompressParsed := by
  rw [← gated_andThen fun herr => parse_ends s.cfg herr]
  exact gated_congr (andThen_assoc ..)

theorem gated_decompressParsed_of_empty {u : State} (h : u.blk.ftCount = 0) :
    u.gated decompressParsed = u.gated decodeContainer :=
  gated_congr (by rw [decompressParsed, treeOnly, if_pos h, andThen_ok])

theorem gated_decompressParsed_of_table {u : State} (h : u.blk.ftCount ≠ 0) :
    u.gated decompressParsed = (u.gated build).gated decodeContainer := by
  rw [← gated_andThen fun herr => build_ends u.cfg herr]
  exact gated_congr (by rw [decompressParsed, treeOnly, if_neg h])

/-! ## When the container fits (R260, R262) -/

theorem dataLength_le (b : Block) : dataLength b ≤ 255 * b.inLen.toNat := by
  have hcode : ∀ n ∈ b.input.map fun x => (b.code x).len.toNat, n ≤ 255 := by
    intro n hn
    obtain ⟨x, -, rfl⟩ := List.mem_map.1 hn
    exact Nat.le_of_lt_succ (b.code x).len.isLt
  have hsum := List.sum_le_card_nsmul _ 255 hcode
  rwa [List.length_map, input_length, smul_eq_mul, Nat.mul_comm] at hsum

/-- A container of 256 records at most, with 255 bits at most for each input byte. -/
theorem containerSize_le {b : Block} (hcap : b.ftCount.toNat ≤ 256) :
    containerSize b ≤ 1283 + 32 * b.inLen.toNat := by
  have hdata := dataLength_le b
  have hpad : padOf (dataLength b) = (8 - dataLength b % 8) % 8 := rfl
  rw [containerSize_eq]
  omega

theorem readyBlock_ftCount_le (b : Block) : (readyBlock b).ftCount.toNat ≤ 256 := by
  have hcount : (readyBlock b).ftCount = (countedBlock b).ftCount :=
    (congrArg Block.ftCount (treedBlock_frame _)).trans rfl
  rw [hcount, ← records_length]
  exact tableWf_length _ (countedBlock_tableWf b)

theorem readyBlock_hdrValid (b : Block) : (readyBlock b).hdrValid = false :=
  congrArg Block.hdrValid (treedBlock_frame _)

/-- COMPRESS leaves a tree and codes unless the input is empty (R260). -/
theorem readyBlock_valid_iff (b : Block) :
    ((readyBlock b).treeValid = true ↔ b.inLen ≠ 0) ∧ ((readyBlock b).ctValid = true ↔ b.inLen ≠ 0) := by
  rw [readyBlock, ne_eq, ← countedBlock_ftCount_eq_zero_iff]
  by_cases hempty : (countedBlock b).ftCount = 0
  · rw [treedBlock_of_empty hempty]
    exact ⟨iff_of_false nofun (not_not.2 hempty), iff_of_false nofun (not_not.2 hempty)⟩
  · rw [treedBlock_of_table hempty]
    exact ⟨iff_of_true rfl hempty, iff_of_true rfl hempty⟩

end Sys2Proof.Machine

open Sys2Proof Sys2Proof.Machine

/-- Settles O46: the chain of COMPRESS is its steps one after another (`gated_compress`), BUILD and GENC among them unless
the table is empty. -/
theorem compressIsItsSteps : Obligations.CompressIsItsSteps := by
  unfold Obligations.CompressIsItsSteps
  intro s u _ hfreq
  obtain rfl : s.gated freq = u := Host.Outcome.next.inj hfreq
  have hcompress : exec .compress s = .next ((s.gated freq).gated compressCounted) :=
    congrArg Host.Outcome.next (gated_compress s)
  rw [hcompress]
  split <;> rename_i hempty
  · exact congrArg Host.Outcome.next (gated_compressCounted_of_empty hempty)
  · exact congrArg Host.Outcome.next (gated_compressCounted_of_table hempty)

/-- Settles O47: the chain of DECOMPRESS is its steps one after another (`gated_decompress`), BUILD among them unless the
table is empty; when PARSE has faulted the gate stops the rest. -/
theorem decompressIsItsSteps : Obligations.DecompressIsItsSteps := by
  unfold Obligations.DecompressIsItsSteps
  intro s u _ hparse
  obtain rfl : s.gated parse = u := Host.Outcome.next.inj hparse
  have hdecompress : exec .decompress s = .next ((s.gated parse).gated decompressParsed) :=
    congrArg Host.Outcome.next (gated_decompress s)
  rw [hdecompress]
  split
  · rename_i herr
    exact congrArg Host.Outcome.next (gated_of_err _ _ herr)
  split <;> rename_i hempty
  · exact congrArg Host.Outcome.next (gated_decompressParsed_of_empty hempty)
  · exact congrArg Host.Outcome.next (gated_decompressParsed_of_table hempty)

/-- Settles O50: a pipeline command too raises only what its row lists (`exec_fault`, by `compress_ends` and
`decompress_ends`). -/
theorem faultsOfThePipelineCommands : Obligations.FaultsOfThePipelineCommands := by
  unfold Obligations.FaultsOfThePipelineCommands
  intro i s t _ herr hexec hfault
  obtain ⟨f, hown, info, b, -, rfl⟩ := exec_fault herr hexec hfault
  exact ⟨f, hown, rfl⟩

/-- Settles O49: COMPRESS comes to PACK with every check passed but the size (`compress_of_fits`, `compress_of_overflow`),
which the input's length bounds (`containerSize_le`). -/
theorem compressCompletesWhenTheContainerFits : Obligations.CompressCompletesWhenTheContainerFits := by
  unfold Obligations.CompressCompletesWhenTheContainerFits
  intro s herr
  have hready := (readyBlock_err s.blk).trans herr
  have hinput := readyBlock_input s.blk
  have hbound := containerSize_le (readyBlock_ftCount_le s.blk)
  rw [readyBlock_inLen] at hbound
  have hhdr := readyBlock_hdrValid s.blk
  have hvalid := readyBlock_valid_iff s.blk
  obtain hover | hfits := lt_or_ge s.cfg.outCap.toNat (containerSize (readyBlock s.blk))
  · have hrun := exec_compress_of_eq herr (compress_of_overflow hover)
    generalize readyBlock s.blk = b at *
    refine ⟨_, hrun, hinput, ?_, ?_, ?_⟩
    · exact fun h => absurd hover (not_lt.2 h)
    · exact fun _ => ⟨rfl, rfl, rfl, rfl, rfl⟩
    · exact fun h => absurd (hbound.trans h) (not_le.2 hover)
  · have hrun := exec_compress_of_eq herr (compress_of_fits hfits)
    have hlen := (packPasses_readyBlock hfits).outLen_eq.trans (containerSize_eq _).symm
    generalize readyBlock s.blk = b at *
    refine ⟨_, hrun, hinput, ?_, ?_, ?_⟩
    · exact fun _ => ⟨hready, hlen, rfl, hhdr, hvalid⟩
    · exact fun h => absurd hfits (not_le.2 h)
    · exact fun _ => hready

/-- Settles O48: DECOMPRESS stores the symbols the words lead to (`decompress_of_container`), in the block that PARSE and
BUILD have made (`unpackBlock_of_ne_nil`). -/
theorem decompressReturnsTheSpelledBytes : Obligations.DecompressReturnsTheSpelledBytes := by
  unfold Obligations.DecompressReturnsTheSpelledBytes
  intro s recs pad packed ws filler herr hwf hne hpad hfiller hinput hleads hbits htotal hfits
  have hcap := tableWf_length recs hwf
  have hstream := unpackBlock_holdsStream hwf hinput hpad hbits hfiller
  have hrun := decompress_of_container hwf hinput hpad hbits hfiller rfl hleads htotal hfits
  refine ⟨_, exec_decompress_of_eq herr hrun, rfl, rfl, storeOutput_output _ ?_, unpackBlock_records hcap _,
    unpackBlock_hdrEnd hcap _, ?_, ?_, ?_⟩
  · rw [List.length_map]
    exact hfits.trans_lt s.cfg.outCap.isLt
  · rw [← hstream.padByte_eq]
    exact bitVec_toNat_ofNat_of_lt (Nat.lt_succ_of_le (hstream.padByte_eq.trans_le hpad))
  · rw [← hstream.dataBitCount_eq]
    exact bitVec_toNat_ofNat_of_lt (dataBitCount_lt _)
  · rw [unpackBlock_of_ne_nil hcap _ hne]
    rfl

end
